-- ==== Sys2Proof/Word.lean ====
section
/-! DEFINITION. The words of the block and nothing else: a line level, a step selector, the data register. -/

namespace Sys2Proof

/-- A level of a one-bit port or a one-bit flag: `false` is 0 (low), `true` is 1 (high, the idle line).
00_scope.md section 5: "The line has two levels." -/
abbrev Level := Bool

/-- The 7-bit operation selector of 30_encoding.md R96. -/
abbrev Selector := BitVec 7

/-- The 32-bit `data` register (10_state.md R36). -/
abbrev DataWord := BitVec 32

/-- The 6-bit `ones` counter (10_state.md R37). -/
abbrev OnesCount := BitVec 6

end Sys2Proof
end

