-- ==== Sys2Proof/Config.lean ====
section
/-! DEFINITION. The build-time configuration (00_scope.md R6, R44 of 10_state.md), its build-interface words
(30_encoding.md R94), and the free values: what the spec leaves to the environment or does not state. -/

namespace Sys2Proof

/-- The parity mode `PM` (00_scope.md R6): "one of None/Even/Odd". -/
inductive ParityMode where
  | none
  | even
  | odd
deriving DecidableEq, Repr

/-- A configuration `(F, B, D, PM, S)` (00_scope.md R6). A machine is built for one of them and no operation changes
it (R9); the model carries it in `State.cfg`, so that a statement about every state is about every configuration. -/
structure Config where
  /-- `F`, `TICK_HZ`: timer ticks a second. -/
  tickHz : Nat
  /-- `B`, `BAUD`: bits a second. -/
  baud : Nat
  /-- `D`, `DATA_BITS`. -/
  dataBits : Nat
  /-- `PM`, `PARITY_MODE`. -/
  parityMode : ParityMode
  /-- `S`, `STOP_BITS`. -/
  stopBits : Nat
deriving DecidableEq, Repr

/-- The configuration of `State.reset`: the defaults of 00_scope.md R6 for `B`, `D`, `PM` and `S`.
DESIGN CHOICE (notes/assumptions/1.md): `F` is OPEN (D27); 1,000,000 is the tick rate of the source's end-to-end scenario. -/
def Config.initial : Config :=
  { tickHz := 1000000, baud := 10000, dataBits := 8, parityMode := .even, stopBits := 1 }

/-- The constants as the build interface encodes them (30_encoding.md R94): `PARITY_MODE` is 2 bits, the others are
unsigned integers. -/
structure BuildConstants where
  tickHz : Nat
  baud : Nat
  dataBits : Nat
  parityMode : BitVec 2
  stopBits : Nat
deriving DecidableEq, Repr

/-- Free value: the level of `rst` on the coming tick whose draw number is the argument, where `State.inputs` lists none
(60_exceptions.md R224, R225: the reset source may assert it on any tick). notes/assumptions/2.md. -/
opaque Config.freeRst : Nat → Level

/-- Free value: the level of `rx` on an unlisted tick. 60_exceptions.md R224: "a draw under no law unless a claim's
premise fixes the trace". notes/assumptions/2.md. -/
opaque Config.freeRx : Nat → Level

/-- Free value: the level of `frame_ack` on an unlisted tick (60_exceptions.md R225). notes/assumptions/2.md. -/
opaque Config.freeFrameAck : Nat → Level

/-- Free value: the level the parity check expects when `PM = None`, which 42_parity_checker.md R171 does not state
(no run from reset asks for it, 30_encoding.md R99). notes/assumptions/4.md. -/
opaque Config.freeExpectedParity : Nat → Level

end Sys2Proof
end

