-- ==== Sys2Proof/Machine/State.lean ====
section
/-! DEFINITION. The machine's state (10_state.md), its outcomes' reasons, and the state after reset. The block has no
memory (20_memory.md R70), no general registers (10_state.md R32), no program counter (R43) and no control or status
register (R44), so State holds none. -/

namespace Sys2Proof.Machine

/-- The FSM state (10_state.md R33, codes in 30_encoding.md R95). The two reserved codes are values too: 30_encoding.md R97
says what the hardware does in them (notes/assumptions/3.md). -/
inductive FsmState where
  | idle
  | start
  | data
  | parity
  | stop
  | complete
  /-- code `110` -/
  | reserved6
  /-- code `111` -/
  | reserved7
deriving DecidableEq, Repr

/-- The levels on the input ports during one step (10_state.md R30). The port `clk` is the step itself (R31). -/
structure Pins where
  rst : Level
  rx : Level
  frameAck : Level
deriving DecidableEq, Repr

/-- The machine. The eight registers are those of 10_state.md R33 to R40. A register whose width follows from the
configuration is a Nat (or a list of `S` entries) that every write cuts to its width; `Safety.lean`'s invariant bounds it.
`cfg`, `inputs`, `draws` and `tick` are the model's own (notes/assumptions/1.md, 2.md, 5.md). -/
structure State where
  /-- The configuration the block is built for; no operation writes it (00_scope.md R9). -/
  cfg : Config
  /-- `state`, 3 bits (R33). -/
  state : FsmState
  /-- `elapsed`, `W_E` bits (R34). -/
  elapsed : Nat
  /-- `bitIdx`, `W_I` bits (R35). -/
  bitIdx : Nat
  /-- `data`, 32 bits (R36). -/
  data : DataWord
  /-- `ones`, 6 bits (R37). -/
  ones : OnesCount
  /-- `startErr`, 1 bit (R38). -/
  startErr : Level
  /-- `parityErr`, 1 bit (R39). -/
  parityErr : Level
  /-- `stopErr`, `S` bits, entry `j` for stop bit `j` (R40). -/
  stopErr : List Level
  /-- The input levels of the coming ticks, this step's first; past its end the levels are free draws. -/
  inputs : List Pins
  /-- How many steps the model has taken: the number of the next free draw. -/
  draws : Nat
  /-- The tick index `n` (00_scope.md section 5): steps since reset was released. -/
  tick : Nat
deriving DecidableEq, Repr

/-- Why a step can stop with a fault. There is no reason: 60_exceptions.md R212, "The block has no synchronous exception, no
illegal-operation trap and no fault." -/
inductive Fault where
deriving DecidableEq, Repr

/-- Why a step can be refused. -/
inductive Refusal where
  /-- Raised by an arm of `exec` that has no meaning yet; no arm raises it now. Safe: the model stops. -/
  | notModelled (mnemonic : String)
  /-- `refuse ConfigIllFormed` (00_scope.md R8, 30_encoding.md R98): raised by `step` and by `build` for a configuration
  that no hardware is built for. Safe: the model stops. -/
  | configIllFormed
deriving DecidableEq, Repr

/-- The reset values of 10_state.md R47 for a block built for `c`, nothing listed on the inputs, at tick 0. -/
def State.resetFor (c : Config) : State :=
  { cfg := c, state := .idle, elapsed := 0, bitIdx := 0, data := 0#32, ones := 0#6, startErr := false,
    parityErr := false, stopErr := List.replicate c.stopBits false, inputs := [], draws := 0, tick := 0 }

/-- The machine right after reset (70_reset_and_hazards.md R243), built for `Config.initial`. -/
def State.reset : State := State.resetFor Config.initial

/-- A decoded frame (00_scope.md section 6, 10_state.md R42). -/
structure Frame where
  data : DataWord
  startErr : Level
  parityErr : Level
  stopErr : List Level
deriving DecidableEq, Repr

/-- One entry of the observation (60_exceptions.md R230): a frame with the tick of the step that handed it over; the
result notation of 30_encoding.md R104. -/
structure HandedOver where
  frame : Frame
  tick : Nat
deriving DecidableEq, Repr

end Sys2Proof.Machine
end

