-- ==== Sys2Proof/Machine/Flags.lean ====
section
/-! DEFINITION. Every flag's value from what was sampled. -/

namespace Sys2Proof.Machine

/-- `startErr <- (b != 0) ? 1 : 0` (41_frame_decoder.md R145). -/
def startErrOf (b : Level) : Level := b

/-- `expectedParity(PM, ones)` (42_parity_checker.md R171, R172). The rule gives no value for `PM = None`; there it is the
free value of the given draw (notes/assumptions/4.md). -/
def expectedParity (pm : ParityMode) (ones : OnesCount) (draw : Nat) : Level :=
  match pm with
  | .even => ones.toNat % 2 == 1
  | .odd => !(ones.toNat % 2 == 1)
  | .none => Config.freeExpectedParity draw

/-- `parityErr <- (b != expectedParity(PM, ones)) ? 1 : 0` (42_parity_checker.md R170). -/
def parityErrOf (b expected : Level) : Level := b != expected

/-- `stopErr[j] <- (b = 0) ? 1 : 0` (43_stop_validator.md R190). -/
def stopErrOf (b : Level) : Level := !b

end Sys2Proof.Machine
end

