-- ==== Sys2Proof/Machine/BitTiming.lean ====
section
/-! DEFINITION. The bit timing calculator (40_bit_timing.md section 1), the frame's length and the register widths that
follow from a configuration (10_state.md R34, R35). -/

namespace Sys2Proof.Config

/-- `P = ticksPerBit = floor(F / B)` (40_bit_timing.md R120). -/
def ticksPerBit (c : Config) : Nat := c.tickHz / c.baud

/-- `H = ticksPerHalfBit = floor(P / 2)`, from the already truncated `P` (40_bit_timing.md R121). -/
def ticksPerHalfBit (c : Config) : Nat := c.ticksPerBit / 2

/-- `pe` (00_scope.md R7): 1 if `PM ≠ None`, otherwise 0. -/
def paritySlots (c : Config) : Nat :=
  match c.parityMode with
  | .none => 0
  | .even => 1
  | .odd => 1

/-- `N = totalBits = 1 + D + pe + S` (00_scope.md R7). -/
def totalBits (c : Config) : Nat := 1 + c.dataBits + c.paritySlots + c.stopBits

/-- `ceil(log2 n)` for `n ≥ 1`. -/
def ceilLog2 (n : Nat) : Nat := if n ≤ 1 then 0 else Nat.log2 (n - 1) + 1

/-- `W_E = max(1, ceil(log2(P)))`, the width of `elapsed` (10_state.md R34). -/
def elapsedWidth (c : Config) : Nat := max 1 (ceilLog2 c.ticksPerBit)

/-- `W_I = max(1, ceil(log2(max(D, S))))`, the width of `bitIdx` (10_state.md R35). -/
def bitIdxWidth (c : Config) : Nat := max 1 (ceilLog2 (max c.dataBits c.stopBits))

/-- The tick, counted from detection, at which slot `k` is sampled: `H + k·P` (40_bit_timing.md R130). -/
def sampleTick (c : Config) (k : Nat) : Nat := c.ticksPerHalfBit + k * c.ticksPerBit

/-- The tick, counted from detection, of the first COMPLETE step: `H + (N−1)·P + 1` (40_bit_timing.md R130). -/
def completeTick (c : Config) : Nat := c.sampleTick (c.totalBits - 1) + 1

end Sys2Proof.Config
end

