-- ==== Sys2Proof/Machine/Operands.lean ====
section
/-! DEFINITION. Every operand of an operation: the input ports during the step, and the due test. -/

namespace Sys2Proof.Machine

/-- The input levels of an unlisted tick: free draws (60_exceptions.md R224). -/
def freePins (draw : Nat) : Pins :=
  { rst := Config.freeRst draw, rx := Config.freeRx draw, frameAck := Config.freeFrameAck draw }

/-- The input levels of the `n`-th coming step, this step's for `n = 0`. -/
def State.inputAt (s : State) (n : Nat) : Pins := (s.inputs[n]?).getD (freePins (s.draws + n))

/-- The levels on the input ports during this step (10_state.md R30). -/
def State.pins (s : State) : Pins := s.inputAt 0

/-- `LineRead()`: the level on `rx` during this step, with no delay (20_memory.md R71, R72). -/
def State.lineRead (s : State) : Level := s.pins.rx

/-- `thr(state)` (40_bit_timing.md R125); only START, DATA, PARITY and STOP are timed. -/
def State.threshold (s : State) : Option Nat :=
  match s.state with
  | .start => some s.cfg.ticksPerHalfBit
  | .data => some s.cfg.ticksPerBit
  | .parity => some s.cfg.ticksPerBit
  | .stop => some s.cfg.ticksPerBit
  | .idle => none
  | .complete => none
  | .reserved6 => none
  | .reserved7 => none

/-- `due` (40_bit_timing.md R125): `elapsed + 1 ≥ thr(state)`; 0 in a state that is not timed (30_encoding.md R96). -/
def State.due (s : State) : Level :=
  match s.threshold with
  | some t => decide (t ≤ s.elapsed + 1)
  | none => false

end Sys2Proof.Machine
end

