-- ==== Sys2Proof/Machine/Ops.lean ====
section
/-! DEFINITION. The named operations over the registers, from which every meaning is built. The block has no memory, so
there is none over memory (20_memory.md R70). TAKING AN EXCEPTION AND RETURNING FROM ONE: the block has neither
(60_exceptions.md R212, R215, R216), so there is no such operation. -/

namespace Sys2Proof.Machine

/-- What a register of `width` bits holds after a write of `n`. -/
def cutTo (width n : Nat) : Nat := n % 2 ^ width

/-- `data[i] <- b`, the other bits unchanged (41_frame_decoder.md R150). A bit the register does not have is not written. -/
def setBit (v : DataWord) (i : Nat) (b : Level) : DataWord :=
  if b then v ||| BitVec.twoPow 32 i else v &&& ~~~ BitVec.twoPow 32 i

/-- `Restart()`: `elapsed <- 0` (40_bit_timing.md R124). -/
def State.restart (s : State) : State := { s with elapsed := 0 }

/-- `elapsed <- elapsed + 1` in `W_E` bits (40_bit_timing.md R126 to R129). -/
def State.countTick (s : State) : State := { s with elapsed := cutTo s.cfg.elapsedWidth (s.elapsed + 1) }

/-- `state <- q` (00_scope.md section 5). -/
def State.goTo (s : State) (q : FsmState) : State := { s with state := q }

/-- `bitIdx <- n` in `W_I` bits (10_state.md R35). -/
def State.setBitIdx (s : State) (n : Nat) : State := { s with bitIdx := cutTo s.cfg.bitIdxWidth n }

/-- `data[bitIdx] <- b` (41_frame_decoder.md R150). -/
def State.writeDataBit (s : State) (b : Level) : State := { s with data := setBit s.data s.bitIdx b }

/-- `ones <- ones + b` in 6 bits (41_frame_decoder.md R150). -/
def State.countOne (s : State) (b : Level) : State := { s with ones := s.ones + (if b then 1#6 else 0#6) }

/-- `startErr <- e` (41_frame_decoder.md R145). -/
def State.setStartErr (s : State) (e : Level) : State := { s with startErr := e }

/-- `parityErr <- e` (42_parity_checker.md R170). -/
def State.setParityErr (s : State) (e : Level) : State := { s with parityErr := e }

/-- `stopErr[bitIdx] <- e`, the other entries unchanged (43_stop_validator.md R190). -/
def State.setStopErr (s : State) (e : Level) : State := { s with stopErr := s.stopErr.set s.bitIdx e }

/-- `bitIdx`, `data`, `ones` and every flag to 0, as IDLE_DETECT and RESET both do (41_frame_decoder.md R141,
70_reset_and_hazards.md R240). -/
def State.clearFrame (s : State) : State :=
  { s with bitIdx := 0, data := 0#32, ones := 0#6, startErr := false, parityErr := false,
           stopErr := List.replicate s.cfg.stopBits false }

/-- The end of a tick: the next tick's input levels come up, the draw number goes on, and the tick index counts from the
first step after `rst` falls (10_state.md R31, 70_reset_and_hazards.md R241). -/
def State.clockTick (s : State) : State :=
  { s with inputs := s.inputs.tail, draws := s.draws + 1, tick := if s.pins.rst then 0 else s.tick + 1 }

end Sys2Proof.Machine
end

