-- ==== Sys2Proof/Machine/FrameDecoder.lean ====
section
/-! DEFINITION. IDLE, START_VALIDATE and DATA (41_frame_decoder.md), and the reserved state codes (30_encoding.md R97). -/

namespace Sys2Proof.Machine

/-- IDLE_HOLD (41_frame_decoder.md R140): nothing is written. -/
def execIdleHold (s : State) : Host.Outcome State Fault Refusal := .next s

/-- IDLE_DETECT (41_frame_decoder.md R141). -/
def execIdleDetect (s : State) : Host.Outcome State Fault Refusal :=
  .next ((s.restart.clearFrame).goTo .start)

/-- START_SAMPLE (41_frame_decoder.md R145, R146). -/
def execStartSample (s : State) : Host.Outcome State Fault Refusal :=
  .next ((((s.setStartErr (startErrOf s.lineRead)).restart).setBitIdx 0).goTo .data)

/-- The state after the last data slot: PARITY, or STOP when `PM = None` (41_frame_decoder.md R150, 30_encoding.md R99). -/
def afterData (pm : ParityMode) : FsmState :=
  match pm with
  | .none => .stop
  | .even => .parity
  | .odd => .parity

/-- DATA_SAMPLE (41_frame_decoder.md R150). Off the rule's premise (`bitIdx ≥ D`, which no run reaches) the pseudocode is
followed as it is written (notes/assumptions/6.md). -/
def execDataSample (s : State) : Host.Outcome State Fault Refusal :=
  let t := ((s.writeDataBit s.lineRead).countOne s.lineRead).restart
  if s.bitIdx = s.cfg.dataBits - 1 then .next ((t.setBitIdx 0).goTo (afterData s.cfg.parityMode))
  else .next (t.setBitIdx (s.bitIdx + 1))

/-- RESERVED_STATE (30_encoding.md R97): "the hardware takes `state <- IDLE` on the next step and writes nothing else". -/
def execReservedState (s : State) : Host.Outcome State Fault Refusal := .next (s.goTo .idle)

end Sys2Proof.Machine
end

