-- ==== Sys2Proof/Machine/ParityChecker.lean ====
section
/-! DEFINITION. The parity checker (42_parity_checker.md). -/

namespace Sys2Proof.Machine

/-- PARITY_SAMPLE (42_parity_checker.md R170, R171, R173). -/
def execParitySample (s : State) : Host.Outcome State Fault Refusal :=
  let e := parityErrOf s.lineRead (expectedParity s.cfg.parityMode s.ones s.draws)
  .next ((((s.setParityErr e).restart).setBitIdx 0).goTo .stop)

end Sys2Proof.Machine
end

