-- ==== Sys2Proof/Machine/ResetStep.lean ====
section
/-! DEFINITION. RESET (70_reset_and_hazards.md section 1). -/

namespace Sys2Proof.Machine

/-- RESET (70_reset_and_hazards.md R240). -/
def execReset (s : State) : Host.Outcome State Fault Refusal :=
  .next ((s.clearFrame.restart).goTo .idle)

end Sys2Proof.Machine
end

