-- ==== Sys2Proof/Machine/StopValidator.lean ====
section
/-! DEFINITION. The stop-bit validator and the frame's completion (43_stop_validator.md). -/

namespace Sys2Proof.Machine

/-- STOP_SAMPLE (43_stop_validator.md R190, R191, R192). Off the rule's premise (`bitIdx ≥ S`, which no run reaches) the
pseudocode is followed as it is written (notes/assumptions/6.md). -/
def execStopSample (s : State) : Host.Outcome State Fault Refusal :=
  let t := (s.setStopErr (stopErrOf s.lineRead)).restart
  if s.bitIdx = s.cfg.stopBits - 1 then .next ((t.setBitIdx 0).goTo .complete)
  else .next (t.setBitIdx (s.bitIdx + 1))

/-- COMPLETE_HOLD (43_stop_validator.md R195): nothing is written. -/
def execCompleteHold (s : State) : Host.Outcome State Fault Refusal := .next s

/-- COMPLETE_RELEASE (43_stop_validator.md R196). -/
def execCompleteRelease (s : State) : Host.Outcome State Fault Refusal := .next (s.goTo .idle)

end Sys2Proof.Machine
end

