-- ==== Sys2Proof/Machine/WaitSteps.lean ====
section
/-! DEFINITION. The four wait operations (40_bit_timing.md section 3). None reads the line. -/

namespace Sys2Proof.Machine

/-- START_WAIT (40_bit_timing.md R126). -/
def execStartWait (s : State) : Host.Outcome State Fault Refusal := .next s.countTick

/-- DATA_WAIT (40_bit_timing.md R127). -/
def execDataWait (s : State) : Host.Outcome State Fault Refusal := .next s.countTick

/-- PARITY_WAIT (40_bit_timing.md R128). -/
def execParityWait (s : State) : Host.Outcome State Fault Refusal := .next s.countTick

/-- STOP_WAIT (40_bit_timing.md R129). -/
def execStopWait (s : State) : Host.Outcome State Fault Refusal := .next s.countTick

end Sys2Proof.Machine
end

