-- ==== Sys2Proof/Syntax.lean ====
section
/-! DEFINITION. The operations: one constructor per row of spec/opcode_table.json. The table gives no row an operand
field, so no constructor has an argument; what an operation reads (`LineRead()`, `frame_ack`, a register) it reads from
the state. -/

namespace Sys2Proof

/-- The operation of one step (30_encoding.md R96, 10_state.md R31). -/
inductive Instr where
  | reset            -- RESET, 70_reset_and_hazards.md R240
  | idleHold         -- IDLE_HOLD, 41_frame_decoder.md R140
  | idleDetect       -- IDLE_DETECT, 41_frame_decoder.md R141
  | startWait        -- START_WAIT, 40_bit_timing.md R126
  | startSample      -- START_SAMPLE, 41_frame_decoder.md R145
  | dataWait         -- DATA_WAIT, 40_bit_timing.md R127
  | dataSample       -- DATA_SAMPLE, 41_frame_decoder.md R150
  | parityWait       -- PARITY_WAIT, 40_bit_timing.md R128
  | paritySample     -- PARITY_SAMPLE, 42_parity_checker.md R170
  | stopWait         -- STOP_WAIT, 40_bit_timing.md R129
  | stopSample       -- STOP_SAMPLE, 43_stop_validator.md R190
  | completeHold     -- COMPLETE_HOLD, 43_stop_validator.md R195
  | completeRelease  -- COMPLETE_RELEASE, 43_stop_validator.md R196
  | reservedState    -- RESERVED_STATE, 30_encoding.md R97
deriving DecidableEq, Repr

end Sys2Proof
end

