-- ==== Sys2Proof/Machine/Dispatch.lean ====
section
/-! DEFINITION. One arm per operation of spec/opcode_table.json. -/

namespace Sys2Proof.Machine

def exec (i : Instr) (s : State) : Host.Outcome State Fault Refusal :=
  match i with
  | .reset => Sys2Proof.Machine.execReset s
  | .idleHold => Sys2Proof.Machine.execIdleHold s
  | .idleDetect => Sys2Proof.Machine.execIdleDetect s
  | .startWait => Sys2Proof.Machine.execStartWait s
  | .startSample => Sys2Proof.Machine.execStartSample s
  | .dataWait => Sys2Proof.Machine.execDataWait s
  | .dataSample => Sys2Proof.Machine.execDataSample s
  | .parityWait => Sys2Proof.Machine.execParityWait s
  | .paritySample => Sys2Proof.Machine.execParitySample s
  | .stopWait => Sys2Proof.Machine.execStopWait s
  | .stopSample => Sys2Proof.Machine.execStopSample s
  | .completeHold => Sys2Proof.Machine.execCompleteHold s
  | .completeRelease => Sys2Proof.Machine.execCompleteRelease s
  | .reservedState => Sys2Proof.Machine.execReservedState s

end Sys2Proof.Machine
end

