-- ==== Sys2Proof/WellFormed.lean ====
section
/-! DEFINITION. Which configurations a block is built for (00_scope.md R8), and which operations a block built for one of
them can come to (30_encoding.md R97, R99, the corner case of 40_bit_timing.md R126). -/

namespace Sys2Proof

/-- 00_scope.md R8, check by check: `F ≥ 1`, `B ≥ 1`, `1 ≤ D ≤ 32`, `S ≥ 1`, `P ≥ 1`, `H ≥ 1`.
That `PM` is one of the three modes is the type's; the reserved code `11` is refused where the build interface is read
(`Machine.configOf`). -/
def Config.wellFormed (c : Config) : Bool :=
  decide (1 ≤ c.tickHz) && decide (1 ≤ c.baud) && decide (1 ≤ c.dataBits) && decide (c.dataBits ≤ 32) &&
    decide (1 ≤ c.stopBits) && decide (1 ≤ c.ticksPerBit) && decide (1 ≤ c.ticksPerHalfBit)

/-- `Config.wellFormed` as a proposition. -/
abbrev Config.WellFormed (c : Config) : Prop := c.wellFormed = true

/-- The operations a block built for `c` can come to from reset: the parity rows only when `PM ≠ None` (30_encoding.md
R99), START_WAIT only when `H ≥ 2` (40_bit_timing.md R126: "when `H = 1`, every START step is due, so START_WAIT never
happens"), the reserved row never (30_encoding.md R97). `exec` gives all of them a meaning all the same. -/
def Instr.wellFormed (c : Config) : Instr → Bool
  | .reset => true
  | .idleHold => true
  | .idleDetect => true
  | .startWait => decide (2 ≤ c.ticksPerHalfBit)
  | .startSample => true
  | .dataWait => true
  | .dataSample => true
  | .parityWait => decide (c.parityMode ≠ .none)
  | .paritySample => decide (c.parityMode ≠ .none)
  | .stopWait => true
  | .stopSample => true
  | .completeHold => true
  | .completeRelease => true
  | .reservedState => false

end Sys2Proof
end

