-- ==== Sys2Proof/Decode.lean ====
section
/-! DEFINITION. The selector's decoder and encoder (30_encoding.md section 3), the table's rows as masks and patterns,
and the reading of a selector from bytes. -/

namespace Sys2Proof

/-- What a byte string can be instead of a selector. -/
inductive DecodeError where
  /-- No byte: there is no selector. -/
  | noByte
  /-- Bit 7 is set: the selector has 7 bits (30_encoding.md R96). -/
  | bitSevenSet
  /-- More than one byte: a selector is one byte here. -/
  | moreThanOneByte
deriving DecidableEq, Repr

/-- The decoder of 30_encoding.md R96 on `sel = {rst, state[2:0], due, rx, frame_ack}`. Every selector has exactly one
operation, so it never refuses. `rst` comes first (60_exceptions.md R214). -/
def decodeSelector (sel : Selector) : Instr :=
  if sel.getLsbD 6 then .reset
  else match (sel.extractLsb' 3 3).toNat with
    | 0 => if sel.getLsbD 1 then .idleHold else .idleDetect
    | 1 => if sel.getLsbD 2 then .startSample else .startWait
    | 2 => if sel.getLsbD 2 then .dataSample else .dataWait
    | 3 => if sel.getLsbD 2 then .paritySample else .parityWait
    | 4 => if sel.getLsbD 2 then .stopSample else .stopWait
    | 5 => if sel.getLsbD 0 then .completeRelease else .completeHold
    | _ => .reservedState

/-- The decoder on bytes: one byte, the selector in its bits 6..0. Total; it rejects by name. -/
def decodeBytes : List (BitVec 8) → Except DecodeError Instr
  | [] => .error .noByte
  | [b] => if b.getLsbD 7 then .error .bitSevenSet else .ok (decodeSelector (b.extractLsb' 0 7))
  | _ :: _ :: _ => .error .moreThanOneByte

/-- The fixed bits of a row (the bits that are not `x` in 30_encoding.md R96). -/
def selectorMask : Instr → Selector
  | .reset => 0b1000000#7
  | .idleHold => 0b1111010#7
  | .idleDetect => 0b1111010#7
  | .startWait => 0b1111100#7
  | .startSample => 0b1111100#7
  | .dataWait => 0b1111100#7
  | .dataSample => 0b1111100#7
  | .parityWait => 0b1111100#7
  | .paritySample => 0b1111100#7
  | .stopWait => 0b1111100#7
  | .stopSample => 0b1111100#7
  | .completeHold => 0b1111001#7
  | .completeRelease => 0b1111001#7
  | .reservedState => 0b1110000#7

/-- The values of a row's fixed bits (30_encoding.md R96). -/
def selectorPattern : Instr → Selector
  | .reset => 0b1000000#7
  | .idleHold => 0b0000010#7
  | .idleDetect => 0b0000000#7
  | .startWait => 0b0001000#7
  | .startSample => 0b0001100#7
  | .dataWait => 0b0010000#7
  | .dataSample => 0b0010100#7
  | .parityWait => 0b0011000#7
  | .paritySample => 0b0011100#7
  | .stopWait => 0b0100000#7
  | .stopSample => 0b0100100#7
  | .completeHold => 0b0101000#7
  | .completeRelease => 0b0101001#7
  | .reservedState => 0b0110000#7

/-- A row of 30_encoding.md R96 matches a selector. -/
def rowMatches (i : Instr) (sel : Selector) : Bool := (sel &&& selectorMask i) == selectorPattern i

/-- The encoder: an operation's fixed bits, with the given bits where the row has don't-cares. -/
def encodeWith (i : Instr) (dontCare : Selector) : Selector :=
  selectorPattern i ||| (dontCare &&& ~~~ selectorMask i)

/-- The encoder with every don't-care bit 0. -/
def encode (i : Instr) : Selector := encodeWith i 0#7

/-- The encoder to bytes: the selector in bits 6..0 of one byte. -/
def encodeBytes (i : Instr) : List (BitVec 8) := [(encode i).setWidth 8]

/-- The bytes of an instruction of `nbits` bits, the first at the lowest place. -/
def wordBytes (nbits w : Nat) : List (BitVec 8) :=
  (List.range ((nbits + 7) / 8)).map (fun k => BitVec.ofNat 8 (w % 2 ^ nbits / 256 ^ k))

/-- The operation the decoder reads from an instruction of `nbits` bits numbered as spec/opcode_table.json numbers them. -/
def decodeTableWord (nbits w : Nat) : Option Instr :=
  match decodeBytes (wordBytes nbits w) with
  | .ok i => some i
  | .error _ => none

end Sys2Proof
end

