-- ==== Sys2Proof/Machine/Selector.lean ====
section
/-! DEFINITION. The block fetches no instruction (20_memory.md R84): a step's operation is the one its selector names
(30_encoding.md R96). Here the selector is formed from the state, and a state is made whose selector is a given word. -/

namespace Sys2Proof.Machine

/-- The state codes of 30_encoding.md R95; `110` and `111` are reserved. -/
def FsmState.code : FsmState → BitVec 3
  | .idle => 0b000#3
  | .start => 0b001#3
  | .data => 0b010#3
  | .parity => 0b011#3
  | .stop => 0b100#3
  | .complete => 0b101#3
  | .reserved6 => 0b110#3
  | .reserved7 => 0b111#3

/-- The state of a code (30_encoding.md R95). -/
def FsmState.ofCode (c : BitVec 3) : FsmState :=
  match c.toNat with
  | 0 => .idle
  | 1 => .start
  | 2 => .data
  | 3 => .parity
  | 4 => .stop
  | 5 => .complete
  | 6 => .reserved6
  | _ => .reserved7

/-- `sel = {rst, state[2:0], due, rx, frame_ack}` (30_encoding.md R96). -/
def State.selector (s : State) : Selector :=
  BitVec.ofBool s.pins.rst ++ s.state.code ++ BitVec.ofBool s.due ++ BitVec.ofBool s.pins.rx ++
    BitVec.ofBool s.pins.frameAck

/-- The operation of this step (30_encoding.md R96). -/
def State.fetch (s : State) : Instr := decodeSelector s.selector

/-- `s` with `elapsed` changed, if need be, so that `s.due` is `want`: one below the threshold to be due, 0 not to be. (With
a threshold of 1 every step is due, 40_bit_timing.md R126.) In a state that is not timed `due` is 0 and nothing is
changed. -/
def State.withDue (s : State) (want : Level) : State :=
  match s.threshold with
  | none => s
  | some t => if s.due = want then s else { s with elapsed := if want then t - 1 else 0 }

/-- `s` with the selector word `sel` as this step's selector: its state code, its input levels and its `due` bit. -/
def State.withSelector (s : State) (sel : Selector) : State :=
  ({ s with
      state := FsmState.ofCode (sel.extractLsb' 3 3)
      inputs := { rst := sel.getLsbD 6, rx := sel.getLsbD 1, frameAck := sel.getLsbD 0 } :: s.inputs.tail }).withDue
    (sel.getLsbD 2)

end Sys2Proof.Machine
end

