-- ==== Sys2Proof/Machine/Step.lean ====
section
/-! DEFINITION. One step: one tick, one operation (10_state.md R31). -/

namespace Sys2Proof.Machine

/-- One step of a block built for a well-formed configuration: the operation its selector names, then the end of the tick.
An ill-formed configuration is refused (00_scope.md R8: "A model refuses an ill-formed configuration"). -/
def step (s : State) : Host.Outcome State Fault Refusal :=
  if s.cfg.wellFormed then
    match exec s.fetch s with
    | .next t => .next t.clockTick
    | .fault f => .fault f
    | .refused r => .refused r
  else .refused .configIllFormed

/-- `s` with the selector word `w` as the next step's selector. There is no program and no fetch: the word is the state code,
the input levels and the due bit (30_encoding.md R96), so exactly these are set (notes/assumptions/7.md). -/
def State.withFetchWord (s : State) (nbits w : Nat) : State :=
  s.withSelector (BitVec.ofNat 7 (w % 2 ^ nbits))

end Sys2Proof.Machine
end

