-- ==== Sys2Proof/Machine/BuildInterface.lean ====
section
/-! DEFINITION. Building a block from the constants as the build interface encodes them (30_encoding.md section 2). -/

namespace Sys2Proof.Machine

/-- `PARITY_MODE`: `00` None, `01` Even, `10` Odd, `11` reserved (30_encoding.md R94). -/
def parityModeOf (code : BitVec 2) : Option ParityMode :=
  match code.toNat with
  | 0 => some .none
  | 1 => some .even
  | 2 => some .odd
  | _ => none

/-- The code of a parity mode (30_encoding.md R94). -/
def parityModeCode : ParityMode → BitVec 2
  | .none => 0b00#2
  | .even => 0b01#2
  | .odd => 0b10#2

/-- The configuration a set of build constants stands for, where none of them is reserved (30_encoding.md R98). -/
def configOf (b : BuildConstants) : Option Config :=
  match parityModeOf b.parityMode with
  | none => none
  | some pm =>
    let c : Config :=
      { tickHz := b.tickHz, baud := b.baud, dataBits := b.dataBits, parityMode := pm, stopBits := b.stopBits }
    if c.wellFormed then some c else none

/-- The build constants of a configuration (30_encoding.md R94). -/
def constantsOf (c : Config) : BuildConstants :=
  { tickHz := c.tickHz, baud := c.baud, dataBits := c.dataBits, parityMode := parityModeCode c.parityMode,
    stopBits := c.stopBits }

/-- Building: the launch state of a block for these constants (70_reset_and_hazards.md R243), or `refuse ConfigIllFormed`
(30_encoding.md R98). -/
def build (b : BuildConstants) : Host.Outcome State Fault Refusal :=
  match configOf b with
  | some c => .next (State.resetFor c)
  | none => .refused .configIllFormed

end Sys2Proof.Machine
end

