-- ==== Sys2Proof/Machine/LineTiming.lean ====
section
/-! DEFINITION. Where a sample falls in its slot on the line (40_bit_timing.md R131, 70_reset_and_hazards.md R253, R256), and
how late a back-to-back frame is detected (R250). These are quantities of the line, not state: no operation reads them. -/

namespace Sys2Proof.Config

/-- `T = F/B`, the transmitter's exact slot length in ticks (40_bit_timing.md R131). -/
def slotLength (c : Config) : ℚ := (c.tickHz : ℚ) / (c.baud : ℚ)

/-- `δ_k = (n0 − e) + H − k·(T' − P)`: how far into slot `k` its sample lies, for a slot length `T'` and a detection `late`
ticks after the start edge (40_bit_timing.md R131 with `T' = T`, 70_reset_and_hazards.md R253 for another). -/
def sampleOffset (c : Config) (slot late : ℚ) (k : Nat) : ℚ :=
  late + (c.ticksPerHalfBit : ℚ) - (k : ℚ) * (slot - (c.ticksPerBit : ℚ))

/-- The slot length in real ticks of a block built for `F` but clocked at `rate`: `T' = F'/B` (70_reset_and_hazards.md
R256). -/
def slotLengthAt (c : Config) (rate : ℚ) : ℚ := rate / (c.baud : ℚ)

/-- `L = H + 2 + A − P`: how late the next back-to-back frame is detected after `A` COMPLETE_HOLD steps, when positive
(70_reset_and_hazards.md R250). -/
def lateness (c : Config) (holds : Nat) : Int :=
  (c.ticksPerHalfBit : Int) + 2 + (holds : Int) - (c.ticksPerBit : Int)

end Sys2Proof.Config
end

