-- ==== Sys2Proof/Machine/Outputs.lean ====
section
/-! DEFINITION. The output ports (10_state.md R30, R41, R42), the errors of a frame (60_exceptions.md R210), and the frame a
step hands over (R230). -/

namespace Sys2Proof.Machine

/-- The output ports. -/
structure Outputs where
  frameValid : Level
  frameData : DataWord
  frameStartErr : Level
  frameParityErr : Level
  frameStopErr : List Level
deriving DecidableEq, Repr

/-- `frame_valid = (state = COMPLETE)` (10_state.md R41). -/
def State.frameValid (s : State) : Level := decide (s.state = .complete)

/-- The output ports drive the registers directly (10_state.md R42). -/
def State.outputs (s : State) : Outputs :=
  { frameValid := s.frameValid, frameData := s.data, frameStartErr := s.startErr, frameParityErr := s.parityErr,
    frameStopErr := s.stopErr }

/-- The frame registers read as a DecodedFrame. -/
def State.frameRegisters (s : State) : Frame :=
  { data := s.data, startErr := s.startErr, parityErr := s.parityErr, stopErr := s.stopErr }

/-- What a consumer may read: a frame only while `frame_valid = 1` (10_state.md R42, D26). -/
def State.presented (s : State) : Option Frame := if s.frameValid then some s.frameRegisters else none

/-- The frame this step hands over, with its tick: one exactly when the step is a COMPLETE_RELEASE (60_exceptions.md R230). -/
def State.handover (s : State) : Option HandedOver :=
  if s.fetch = .completeRelease then some { frame := s.frameRegisters, tick := s.tick } else none

/-- The three kinds of error (60_exceptions.md R210). -/
inductive ErrorCause where
  | startBitError
  | parityError
  | stopBitError (j : Nat)
deriving DecidableEq, Repr

/-- The cause ids of 60_exceptions.md R210: 0, 1, `2 + j`. -/
def ErrorCause.id : ErrorCause → Nat
  | .startBitError => 0
  | .parityError => 1
  | .stopBitError j => 2 + j

/-- The errors a frame's flags record, in the order of their ids (60_exceptions.md R210). -/
def Frame.errors (f : Frame) : List ErrorCause :=
  (if f.startErr then [.startBitError] else []) ++ (if f.parityErr then [.parityError] else []) ++
    ((List.range f.stopErr.length).filter (fun j => f.stopErr.getD j false)).map .stopBitError

end Sys2Proof.Machine
end

