-- ==== Sys2Proof/Machine/Stimulus.lean ====
section
/-! DEFINITION. The stimulus notation of 30_encoding.md section 5: line segments, consumers, and the closed loop of the
block with its line and its consumer. It has no hardware meaning (R101); it says what a test program means. -/

namespace Sys2Proof.Machine

/-- A segment or pseudo-segment of a test program (30_encoding.md R102, R103). A `frame` takes its overrides `start=`,
`par=` and `stop=` as options. -/
inductive Segment where
  | hi (n : Nat)
  | lo (n : Nat)
  | slots (levels : List Level)
  | frame (v : DataWord) (start par : Option Level) (stop : Option (List Level))
  | idle (n : Nat)
  | brk (n : Nat)
deriving DecidableEq, Repr

/-- The parity slot that `frame <v>` sends (30_encoding.md R103), from the number of 1 bits in `v[D−1:0]`. -/
def sentParity (c : Config) (v : DataWord) : Level :=
  let odd := (List.range c.dataBits).countP (fun i => v.getLsbD i) % 2 == 1
  match c.parityMode with
  | .none => false
  | .even => odd
  | .odd => !odd

/-- The slot levels of `frame <v>` with its overrides: start, data least-significant first, parity, stop (30_encoding.md
R103, R90). -/
def frameSlots (c : Config) (v : DataWord) (start par : Option Level) (stop : Option (List Level)) : List Level :=
  start.getD false :: (List.range c.dataBits).map (fun i => v.getLsbD i) ++
    (List.replicate c.paritySlots (par.getD (sentParity c v)) ++ stop.getD (List.replicate c.stopBits true))

/-- Each slot's level held for exactly `P` ticks (30_encoding.md R102). -/
def holdSlots (c : Config) (levels : List Level) : List Level :=
  levels.flatMap (fun l => List.replicate c.ticksPerBit l)

/-- A segment's level on each of its ticks (30_encoding.md R102, R103). -/
def Segment.levels (c : Config) : Segment → List Level
  | .hi n => List.replicate n true
  | .lo n => List.replicate n false
  | .slots ls => holdSlots c ls
  | .frame v start par stop => holdSlots c (frameSlots c v start par stop)
  | .idle n => List.replicate n true
  | .brk n => List.replicate n false

/-- The level on the line on each tick before `n`: the segments one after another, then 1 (30_encoding.md R102). -/
def lineTrace (c : Config) (segs : List Segment) (n : Nat) : List Level :=
  let ls := segs.flatMap (Segment.levels c)
  ls.take n ++ List.replicate (n - ls.length) true

/-- A tick-by-tick `rx` string as run lengths (30_encoding.md R102). -/
def runLengths : List Level → List (Level × Nat)
  | [] => []
  | l :: ls =>
    match runLengths ls with
    | [] => [(l, 1)]
    | (m, k) :: rest => if l = m then (m, k + 1) :: rest else (l, 1) :: (m, k) :: rest

/-- A consumer (30_encoding.md R102): `ack=auto`, `ack=delay <a>`, `ack=never`. -/
inductive Consumer where
  | auto
  | delay (a : Nat)
  | never
deriving DecidableEq, Repr

/-- How many consecutive steps the block has spent in COMPLETE, this one counted, when it spent `before` there just before:
0 in any other state (30_encoding.md R102). -/
def State.completeStep (before : Nat) (s : State) : Nat := if s.state = .complete then before + 1 else 0

/-- The consumer's `frame_ack` on the `nth` consecutive step in COMPLETE (`nth = 0`: on a step in another state):
`ack=delay <a>` answers "only on the `(a+1)`-th consecutive step spent in COMPLETE" (30_encoding.md R102). -/
def Consumer.ack (nth : Nat) : Consumer → Level
  | .auto => true
  | .delay a => decide (nth = a + 1)
  | .never => false

/-- The closed loop: one step for each level of the line, the consumer answering what it sees; the state reached and the
frames handed over. `before` counts the consecutive steps in COMPLETE just before the first of these. -/
def runLoop (consumer : Consumer) : List Level → Nat → State → Host.Outcome (State × List HandedOver) Fault Refusal
  | [], _, s => .next (s, [])
  | l :: ls, before, s =>
    let nth := s.completeStep before
    let s₁ := { s with inputs := [{ rst := false, rx := l, frameAck := consumer.ack nth }] }
    match step s₁ with
    | .next t =>
      match runLoop consumer ls nth t with
      | .next (u, hs) => .next (u, s₁.handover.toList ++ hs)
      | .fault f => .fault f
      | .refused r => .refused r
    | .fault f => .fault f
    | .refused r => .refused r

/-- A test program (30_encoding.md R102): a configuration, a consumer, segments, and the tick it ends before. It starts in
the reset state at tick 0. -/
structure TestProgram where
  cfg : Config
  consumer : Consumer
  segments : List Segment
  endTick : Nat
deriving DecidableEq, Repr

/-- What a test program does: the state after its last tick and the frames handed over, or `refuse ConfigIllFormed`
(00_scope.md R8). -/
def TestProgram.run (p : TestProgram) : Host.Outcome (State × List HandedOver) Fault Refusal :=
  if p.cfg.wellFormed then runLoop p.consumer (lineTrace p.cfg p.segments p.endTick) 0 (State.resetFor p.cfg)
  else .refused .configIllFormed

end Sys2Proof.Machine
end

