-- ==== Sys2Proof/Safety.lean ====
section
/-! DEFINITION. What the claims are about: the invariant of 10_state.md R46, runs and their observation (60_exceptions.md
R230), and the schedule of a frame (40_bit_timing.md R130). -/

namespace Sys2Proof.Machine

/-- The number of 1 bits of a data word. -/
def popcount (v : DataWord) : Nat := (List.range 32).countP (fun i => v.getLsbD i)

/-- The row of 10_state.md R46's table for the state the machine is in; the reserved codes have none. -/
def State.rowHolds (s : State) : Prop :=
  match s.state with
  | .idle => s.elapsed = 0 ∧ s.bitIdx = 0
  | .start => s.elapsed < s.cfg.ticksPerHalfBit ∧ s.bitIdx = 0 ∧ s.startErr = false ∧ s.data = 0#32 ∧ s.ones = 0#6 ∧
      s.parityErr = false ∧ s.stopErr = List.replicate s.cfg.stopBits false
  | .data => s.elapsed < s.cfg.ticksPerBit ∧ s.bitIdx < s.cfg.dataBits ∧ s.data.toNat < 2 ^ s.bitIdx ∧
      s.parityErr = false ∧ s.stopErr = List.replicate s.cfg.stopBits false
  | .parity => s.elapsed < s.cfg.ticksPerBit ∧ s.bitIdx = 0 ∧ s.cfg.parityMode ≠ .none ∧
      s.stopErr = List.replicate s.cfg.stopBits false
  | .stop => s.elapsed < s.cfg.ticksPerBit ∧ s.bitIdx < s.cfg.stopBits ∧
      s.stopErr.drop s.bitIdx = List.replicate (s.cfg.stopBits - s.bitIdx) false
  | .complete => s.elapsed = 0 ∧ s.bitIdx = 0
  | .reserved6 => False
  | .reserved7 => False

/-- The invariant: the configuration is well formed, the table of 10_state.md R46 holds with its two clauses for every
state, and each register that is not a bit vector keeps its width (R34, R35, R40). -/
structure State.Inv (s : State) : Prop where
  built : s.cfg.WellFormed
  row : s.rowHolds
  dataWidth : s.data.toNat < 2 ^ s.cfg.dataBits
  onesCount : s.ones.toNat = popcount s.data
  stopEntries : s.stopErr.length = s.cfg.stopBits
  elapsedFits : s.elapsed < 2 ^ s.cfg.elapsedWidth
  bitIdxFits : s.bitIdx < 2 ^ s.cfg.bitIdxWidth

/-- 10_state.md R39: with `PM = None` the parity flag stays 0. -/
def State.parityQuiet (s : State) : Prop := s.cfg.parityMode = .none → s.parityErr = false

/-- Two states with the same register contents and configuration, whatever their inputs and time. -/
def State.sameRegisters (s t : State) : Prop :=
  s.cfg = t.cfg ∧ s.state = t.state ∧ s.elapsed = t.elapsed ∧ s.bitIdx = t.bitIdx ∧ s.data = t.data ∧ s.ones = t.ones ∧
    s.startErr = t.startErr ∧ s.parityErr = t.parityErr ∧ s.stopErr = t.stopErr

/-- The order of the states (10_state.md R43), a step of each timed state and of COMPLETE also staying where it is. -/
def FsmState.successors (pm : ParityMode) : FsmState → List FsmState
  | .idle => [.idle, .start]
  | .start => [.start, .data]
  | .data => if pm = .none then [.data, .stop] else [.data, .parity]
  | .parity => [.parity, .stop]
  | .stop => [.stop, .complete]
  | .complete => [.complete, .idle]
  | .reserved6 => [.idle]
  | .reserved7 => [.idle]

/-- `n` steps. -/
abbrev runFor (n : Nat) (s : State) : Host.Outcome State Fault Refusal := Host.Core.run Sys2Proof.core n s

/-- The frames handed over in the next `n` steps (60_exceptions.md R230). -/
def observe : Nat → State → List HandedOver
  | 0, _ => []
  | n + 1, s =>
    match step s with
    | .next t => s.handover.toList ++ observe n t
    | .fault _ => []
    | .refused _ => []

/-- The operation that samples slot `k` of a frame (30_encoding.md R90). -/
def slotOperation (c : Config) (k : Nat) : Instr :=
  if k = 0 then .startSample
  else if k ≤ c.dataBits then .dataSample
  else if k < 1 + c.dataBits + c.paritySlots then .paritySample
  else .stopSample

/-- The wait operation of the state that times slot `k`. -/
def slotWait (c : Config) (k : Nat) : Instr :=
  if k = 0 then .startWait
  else if k ≤ c.dataBits then .dataWait
  else if k < 1 + c.dataBits + c.paritySlots then .parityWait
  else .stopWait

/-- The level that `s` samples in slot `k`, when its frame is detected at this step (40_bit_timing.md R130). -/
def State.slotLevel (s : State) (k : Nat) : Level := (s.inputAt (s.cfg.sampleTick k)).rx

/-- `Σ_{i<n} s(1+i)·2^i` (30_encoding.md R92). -/
def slotSum (level : Nat → Level) : Nat → Nat
  | 0 => 0
  | n + 1 => slotSum level n + (if level (1 + n) then 2 ^ n else 0)

/-- A frame without errors: data `v`, every flag 0. -/
def cleanFrame (c : Config) (v : DataWord) : Frame :=
  { data := v, startErr := false, parityErr := false, stopErr := List.replicate c.stopBits false }

/-- The levels of one tick with no reset, the line at `rx`, and the consumer acknowledging (`ack=auto`). -/
def autoPins (rx : Level) : Pins := { rst := false, rx := rx, frameAck := true }

end Sys2Proof.Machine
end

