-- ==== Sys2Proof/Certificates/Slice0/Obligations.lean ====
section
/-! DEFINITION. The statements about the model. A statement that gives an operation's next state as a record update of `s`
states its frame too: every field that the update does not name is unchanged. The block has no memory and no
general register (20_memory.md R70, 10_state.md R32), so there is no frame about them to state. -/

open Sys2Proof Sys2Proof.Machine

/-! ### The operations, row by row: the selector names them, and what their step writes -/

/-- 70_reset_and_hazards.md R240: with `rst = 1`, in any state, the operation is RESET and it writes these eight registers. -/
def Obligations.ResetClearsEveryRegister : Prop :=
  ∀ s : State, s.pins.rst = true →
    s.fetch = .reset ∧
    exec .reset s = .next { s with
      state := .idle, elapsed := 0, bitIdx := 0, data := 0#32, ones := 0#6, startErr := false, parityErr := false,
      stopErr := List.replicate s.cfg.stopBits false } ∧
    s.handover = none

/-- 41_frame_decoder.md R140: IDLE with the line high writes nothing, and no frame is valid. -/
def Obligations.IdleHoldWritesNothing : Prop :=
  ∀ s : State, s.pins.rst = false → s.state = .idle → s.lineRead = true →
    s.fetch = .idleHold ∧ exec .idleHold s = .next s ∧ s.frameValid = false

/-- 41_frame_decoder.md R141: IDLE with the line low starts a fresh frame, whatever the frame registers held. -/
def Obligations.IdleDetectStartsFreshFrame : Prop :=
  ∀ s : State, s.pins.rst = false → s.state = .idle → s.lineRead = false →
    s.fetch = .idleDetect ∧
    exec .idleDetect s = .next { s with
      state := .start, elapsed := 0, bitIdx := 0, data := 0#32, ones := 0#6, startErr := false, parityErr := false,
      stopErr := List.replicate s.cfg.stopBits false }

/-- 40_bit_timing.md R126 to R129: a timed step that is not due only adds 1 to `elapsed`; the add never wraps in `W_E` bits. -/
def Obligations.WaitStepsCountOneTick : Prop :=
  ∀ s : State, s.pins.rst = false →
    (s.state = .start → s.elapsed + 1 < s.cfg.ticksPerHalfBit →
      s.fetch = .startWait ∧ exec .startWait s = .next { s with elapsed := s.elapsed + 1 }) ∧
    (s.state = .data → s.elapsed + 1 < s.cfg.ticksPerBit →
      s.fetch = .dataWait ∧ exec .dataWait s = .next { s with elapsed := s.elapsed + 1 }) ∧
    (s.state = .parity → s.elapsed + 1 < s.cfg.ticksPerBit →
      s.fetch = .parityWait ∧ exec .parityWait s = .next { s with elapsed := s.elapsed + 1 }) ∧
    (s.state = .stop → s.elapsed + 1 < s.cfg.ticksPerBit →
      s.fetch = .stopWait ∧ exec .stopWait s = .next { s with elapsed := s.elapsed + 1 })

/-- 41_frame_decoder.md R145: a due START step records the start bit's level as `startErr` and goes on to DATA. -/
def Obligations.StartSampleRecordsStartBit : Prop :=
  ∀ s : State, s.pins.rst = false → s.state = .start → s.cfg.ticksPerHalfBit ≤ s.elapsed + 1 →
    s.fetch = .startSample ∧
    exec .startSample s = .next { s with
      startErr := if s.lineRead = false then false else true, elapsed := 0, bitIdx := 0, state := .data }

/-- 41_frame_decoder.md R150: a due DATA step writes `data[i]`, counts the bit, restarts, and goes to the next bit or, after
the last one, to PARITY or STOP. The bound on `ones` is the register's range (10_state.md R37). -/
def Obligations.DataSampleWritesBitAndCounts : Prop :=
  ∀ s : State, s.cfg.WellFormed → s.pins.rst = false → s.state = .data → s.cfg.ticksPerBit ≤ s.elapsed + 1 →
    s.bitIdx < s.cfg.dataBits → s.ones.toNat ≤ 32 →
    s.fetch = .dataSample ∧
    ∃ (d : DataWord) (o : OnesCount),
      exec .dataSample s = .next { s with
        data := d, ones := o, elapsed := 0,
        bitIdx := if s.bitIdx = s.cfg.dataBits - 1 then 0 else s.bitIdx + 1,
        state := if s.bitIdx = s.cfg.dataBits - 1 then (if s.cfg.parityMode ≠ .none then .parity else .stop) else .data } ∧
      (∀ k, k < 32 → d.getLsbD k = if k = s.bitIdx then s.lineRead else s.data.getLsbD k) ∧
      o.toNat = s.ones.toNat + (if s.lineRead then 1 else 0)

/-- 42_parity_checker.md R170 with the expected level of R171: a due PARITY step compares the line with `ones mod 2` (Even)
or `1 − (ones mod 2)` (Odd) and goes on to STOP. -/
def Obligations.ParitySampleChecksParity : Prop :=
  ∀ s : State, s.pins.rst = false → s.state = .parity → s.cfg.ticksPerBit ≤ s.elapsed + 1 →
    s.cfg.parityMode ≠ .none →
    s.fetch = .paritySample ∧
    exec .paritySample s = .next { s with
      parityErr := decide ((if s.lineRead then 1 else 0) ≠
        (if s.cfg.parityMode = .even then s.ones.toNat % 2 else 1 - s.ones.toNat % 2)),
      elapsed := 0, bitIdx := 0, state := .stop }

/-- The model's choice (notes/assumptions/4.md): a PARITY step of a block built with `PM = None`, which no run from reset
takes (30_encoding.md R99), still runs; 42_parity_checker.md R171 states no expected level, so nothing is said of the flag. -/
def Obligations.ParitySampleRunsWithoutParityMode : Prop :=
  ∀ s : State, s.pins.rst = false → s.state = .parity → s.cfg.ticksPerBit ≤ s.elapsed + 1 →
    s.cfg.parityMode = .none →
    s.fetch = .paritySample ∧
    ∃ e : Level, exec .paritySample s = .next { s with parityErr := e, elapsed := 0, bitIdx := 0, state := .stop }

/-- 43_stop_validator.md R190: a due STOP step writes entry `j` of `stopErr`, the other entries unchanged, restarts, and goes
to the next stop bit or, after the last one, to COMPLETE. -/
def Obligations.StopSampleRecordsStopBit : Prop :=
  ∀ s : State, s.cfg.WellFormed → s.pins.rst = false → s.state = .stop → s.cfg.ticksPerBit ≤ s.elapsed + 1 →
    s.bitIdx < s.cfg.stopBits → s.stopErr.length = s.cfg.stopBits →
    s.fetch = .stopSample ∧
    ∃ e : List Level,
      exec .stopSample s = .next { s with
        stopErr := e, elapsed := 0,
        bitIdx := if s.bitIdx = s.cfg.stopBits - 1 then 0 else s.bitIdx + 1,
        state := if s.bitIdx = s.cfg.stopBits - 1 then .complete else .stop } ∧
      e.length = s.cfg.stopBits ∧
      ∀ k, k < s.cfg.stopBits → e[k]? = if k = s.bitIdx then some (!s.lineRead) else s.stopErr[k]?

/-- 43_stop_validator.md R195: COMPLETE without an acknowledgement writes nothing and presents the frame. -/
def Obligations.CompleteHoldWritesNothing : Prop :=
  ∀ s : State, s.pins.rst = false → s.state = .complete → s.pins.frameAck = false →
    s.fetch = .completeHold ∧ exec .completeHold s = .next s ∧ s.frameValid = true ∧
    s.presented = some s.frameRegisters ∧ s.handover = none

/-- 43_stop_validator.md R196: COMPLETE with an acknowledgement returns to IDLE; the frame is valid on this step, not after. -/
def Obligations.CompleteReleaseReturnsToIdle : Prop :=
  ∀ s : State, s.pins.rst = false → s.state = .complete → s.pins.frameAck = true →
    s.fetch = .completeRelease ∧ exec .completeRelease s = .next { s with state := .idle } ∧
    s.frameValid = true ∧ ({ s with state := .idle } : State).frameValid = false ∧
    s.handover = some { frame := s.frameRegisters, tick := s.tick }

/-- 30_encoding.md R97, what the hardware does in a reserved state code: `state <- IDLE` and nothing else. That the model can
hold the codes at all is its own choice (notes/assumptions/3.md). -/
def Obligations.ReservedCodesReturnToIdle : Prop :=
  ∀ s : State, s.pins.rst = false → (s.state.code = 0b110#3 ∨ s.state.code = 0b111#3) →
    s.fetch = .reservedState ∧ exec .reservedState s = .next { s with state := .idle }

/-! ### The step -/

/-- 10_state.md R31: a step does the operation its selector's byte decodes to, and then the tick ends: the next listed input
levels come up, the draw number goes on, and the tick index counts from the first step after `rst` falls (the model's own
fields, notes/assumptions/2.md and 5.md). Every selector decodes. -/
def Obligations.StepRunsSelectedOperation : Prop :=
  (∀ s : State, ∃ i, decodeBytes [s.selector.setWidth 8] = .ok i) ∧
  ∀ (s t : State) (i : Instr), s.cfg.WellFormed → decodeBytes [s.selector.setWidth 8] = .ok i → exec i s = .next t →
    step s = .next { t with
      inputs := s.inputs.tail, draws := s.draws + 1, tick := if s.pins.rst then 0 else s.tick + 1 }

/-- 60_exceptions.md R212 and 43_stop_validator.md R197: a built block answers every step, for any number of steps, whatever
the inputs; 00_scope.md R9: and its configuration never changes. -/
def Obligations.EveryRunContinues : Prop :=
  ∀ (s : State) (n : Nat), s.cfg.WellFormed → ∃ t, runFor n s = .next t ∧ t.cfg = s.cfg

/-- 30_encoding.md R98: a configuration with a reserved value is refused, where it is built and where it would run; any other
is built into the launch state. -/
def Obligations.IllFormedConfigurationRefused : Prop :=
  (∀ s : State, ¬ s.cfg.WellFormed → step s = .refused .configIllFormed) ∧
  ∀ b : BuildConstants,
    ((b.parityMode = 0b11#2 ∨ b.dataBits = 0 ∨ 32 < b.dataBits ∨ b.stopBits = 0 ∨ b.baud = 0 ∨ b.tickHz = 0 ∨
        b.tickHz < 2 * b.baud) → build b = .refused .configIllFormed) ∧
    (¬ (b.parityMode = 0b11#2 ∨ b.dataBits = 0 ∨ 32 < b.dataBits ∨ b.stopBits = 0 ∨ b.baud = 0 ∨ b.tickHz = 0 ∨
        b.tickHz < 2 * b.baud) →
      ∃ c : Config, constantsOf c = b ∧ c.WellFormed ∧ build b = .next (State.resetFor c))

/-- 00_scope.md R8: the two timing bounds together are `F ≥ 2·B`. -/
def Obligations.WellFormedMeansTwoTicksPerBit : Prop :=
  ∀ c : Config, c.WellFormed ↔
    (1 ≤ c.tickHz ∧ 1 ≤ c.baud ∧ 1 ≤ c.dataBits ∧ c.dataBits ≤ 32 ∧ 1 ≤ c.stopBits ∧ 2 * c.baud ≤ c.tickHz)

/-- 40_bit_timing.md R120, R121: `P` is the truncated quotient `F/B` and `H` the truncated half of `P`. -/
def Obligations.TimingConstantsAreTruncatedQuotients : Prop :=
  ∀ c : Config, 1 ≤ c.baud →
    (c.ticksPerBit * c.baud ≤ c.tickHz ∧ c.tickHz < (c.ticksPerBit + 1) * c.baud) ∧
    (2 * c.ticksPerHalfBit ≤ c.ticksPerBit ∧ c.ticksPerBit < 2 * c.ticksPerHalfBit + 2)

/-- 10_state.md R34, R35: `W_E` and `W_I` are the least widths (at least 1) that hold `0` to `P − 1` and `0` to
`max(D, S) − 1`. -/
def Obligations.CounterWidthsAreLeast : Prop :=
  ∀ c : Config, c.WellFormed →
    (1 ≤ c.elapsedWidth ∧ c.ticksPerBit ≤ 2 ^ c.elapsedWidth ∧
      ∀ w, 1 ≤ w → c.ticksPerBit ≤ 2 ^ w → c.elapsedWidth ≤ w) ∧
    (1 ≤ c.bitIdxWidth ∧ max c.dataBits c.stopBits ≤ 2 ^ c.bitIdxWidth ∧
      ∀ w, 1 ≤ w → max c.dataBits c.stopBits ≤ 2 ^ w → c.bitIdxWidth ≤ w)

/-! ### Reset -/

/-- 10_state.md R47: the reset values of a block launched for any configuration. That `State.reset` is the one for
`Config.initial` is the model's choice (notes/assumptions/1.md). -/
def Obligations.ResetValues : Prop :=
  State.reset = State.resetFor Config.initial ∧
  ∀ c : Config, (State.resetFor c).cfg = c ∧ (State.resetFor c).state = .idle ∧ (State.resetFor c).elapsed = 0 ∧
    (State.resetFor c).bitIdx = 0 ∧ (State.resetFor c).data = 0#32 ∧ (State.resetFor c).ones = 0#6 ∧
    (State.resetFor c).startErr = false ∧ (State.resetFor c).parityErr = false ∧
    (State.resetFor c).stopErr = List.replicate c.stopBits false ∧ (State.resetFor c).presented = none

/-- 70_reset_and_hazards.md R242, R243: one step with `rst = 1`, from any register contents, leaves the launch state, with the
inputs moved on by one tick: nothing of an interrupted frame is left, and none is handed over. -/
def Obligations.ResetStepLeavesLaunchState : Prop :=
  ∀ s : State, s.cfg.WellFormed → s.pins.rst = true →
    step s = .next { State.resetFor s.cfg with inputs := s.inputs.tail, draws := s.draws + 1 } ∧ s.handover = none

/-! ### Encodings -/

/-- 30_encoding.md R96: the selector's bits, `due` 0 in IDLE and COMPLETE, and of the 14 rows exactly one matches each
selector: the one the decoder gives. -/
def Obligations.SelectorRowsPartitionAllSelectors : Prop :=
  (∀ s : State, s.selector.getLsbD 6 = s.pins.rst ∧ s.selector.extractLsb' 3 3 = s.state.code ∧
    s.selector.getLsbD 2 = s.due ∧ s.selector.getLsbD 1 = s.pins.rx ∧ s.selector.getLsbD 0 = s.pins.frameAck ∧
    (s.state = .idle ∨ s.state = .complete → s.due = false)) ∧
  ∀ (sel : Selector) (i : Instr), rowMatches i sel = true ↔ decodeSelector sel = i

/-- 40_bit_timing.md R125: a step in a timed state is due when `elapsed + 1 ≥ thr(state)`, with `thr(START) = H` and `P` in
DATA, PARITY and STOP; inside the invariant's bound that is `elapsed = thr(state) − 1`. A due step is that state's sample
operation, one that is not due its wait operation, and `due` is bit 2 of the selector. -/
def Obligations.DueComparesElapsedWithThreshold : Prop :=
  ∀ s : State,
    s.selector.getLsbD 2 = s.due ∧
    (s.state = .start → ((s.due = true ↔ s.elapsed + 1 ≥ s.cfg.ticksPerHalfBit) ∧
      (s.elapsed < s.cfg.ticksPerHalfBit → (s.due = true ↔ s.elapsed = s.cfg.ticksPerHalfBit - 1)))) ∧
    (s.state = .data ∨ s.state = .parity ∨ s.state = .stop → ((s.due = true ↔ s.elapsed + 1 ≥ s.cfg.ticksPerBit) ∧
      (s.elapsed < s.cfg.ticksPerBit → (s.due = true ↔ s.elapsed = s.cfg.ticksPerBit - 1)))) ∧
    (s.pins.rst = false →
      (s.state = .start → s.fetch = if s.due then .startSample else .startWait) ∧
      (s.state = .data → s.fetch = if s.due then .dataSample else .dataWait) ∧
      (s.state = .parity → s.fetch = if s.due then .paritySample else .parityWait) ∧
      (s.state = .stop → s.fetch = if s.due then .stopSample else .stopWait))

/-- Words written out from 30_encoding.md R96: one for each family of operations. -/
def Obligations.SelectorWordsDecode : Prop :=
  decodeBytes [0b01010110#8] = .ok .reset ∧ decodeBytes [0b00000010#8] = .ok .idleHold ∧
  decodeBytes [0b00000101#8] = .ok .idleDetect ∧ decodeBytes [0b00001001#8] = .ok .startWait ∧
  decodeBytes [0b00010110#8] = .ok .dataSample ∧ decodeBytes [0b00011100#8] = .ok .paritySample ∧
  decodeBytes [0b00100111#8] = .ok .stopSample ∧ decodeBytes [0b00101001#8] = .ok .completeRelease ∧
  decodeBytes [0b00111010#8] = .ok .reservedState

/-- Decoding an encoded operation gives it back, with every value of its row's don't-care bits; a byte whose bit 7 is set is
no selector (the byte is the model's choice, notes/assumptions/9.md). -/
def Obligations.DecodeOfEncode : Prop :=
  (∀ (i : Instr) (dontCare : Selector), decodeBytes [(encodeWith i dontCare).setWidth 8] = .ok i) ∧
  (∀ i : Instr, decodeBytes (encodeBytes i) = .ok i) ∧
  ∀ b : BitVec 8, b.getLsbD 7 = true → decodeBytes [b] = .error .bitSevenSet

/-- The model's choice, not a rule of the spec: `withFetchWord` is the model's own device (notes/assumptions/7.md, DEDUCED),
and a selector word is one byte by notes/assumptions/9.md. The next step of the state it makes runs the operation the
decoder reads from the word, for every selector word and every well-formed block; where `H = 1` no START step is a wait
(40_bit_timing.md R126), and a START_WAIT word gives START_SAMPLE. Only the FSM state, `elapsed` and this tick's
input levels are changed for it. -/
def Obligations.FetchWordSelectsItsRow : Prop :=
  ∀ (s : State) (w : Nat), s.cfg.WellFormed → w < 128 →
    (∃ i, decodeTableWord 8 w = some i ∧
      (s.withFetchWord 8 w).fetch = if i = .startWait ∧ s.cfg.ticksPerHalfBit = 1 then .startSample else i) ∧
    s.withFetchWord 8 w = { s with
      state := (s.withFetchWord 8 w).state, elapsed := (s.withFetchWord 8 w).elapsed,
      inputs := (s.withFetchWord 8 w).inputs } ∧
    (s.withFetchWord 8 w).inputs.tail = s.inputs.tail

/-- 30_encoding.md R95: the state codes, and back. -/
def Obligations.StateCodes : Prop :=
  FsmState.code .idle = 0b000#3 ∧ FsmState.code .start = 0b001#3 ∧ FsmState.code .data = 0b010#3 ∧
  FsmState.code .parity = 0b011#3 ∧ FsmState.code .stop = 0b100#3 ∧ FsmState.code .complete = 0b101#3 ∧
  (∀ q : FsmState, FsmState.ofCode q.code = q) ∧ ∀ c : BitVec 3, (FsmState.ofCode c).code = c

/-- 30_encoding.md R94: reading back the build constants of a well-formed configuration gives it, and the parity codes are
`00`, `01`, `10`, with `11` reserved. -/
def Obligations.BuildConstantsRoundTrip : Prop :=
  (∀ c : Config, c.WellFormed → configOf (constantsOf c) = some c) ∧
  (∀ (b : BuildConstants) (c : Config), configOf b = some c → constantsOf c = b ∧ c.WellFormed) ∧
  parityModeCode .none = 0b00#2 ∧ parityModeCode .even = 0b01#2 ∧ parityModeCode .odd = 0b10#2 ∧
  parityModeOf 0b11#2 = none

/-! ### Invariants -/

/-- The invariant of 10_state.md R46 holds at reset, for every well-formed configuration. -/
def Obligations.InvariantHoldsAtReset : Prop :=
  State.reset.Inv ∧ ∀ c : Config, c.WellFormed → (State.resetFor c).Inv

/-- 10_state.md R46: every step keeps the invariant: the table of register ranges per state, `data[31:D] = 0`,
`ones = popcount(data)`, `S` stop entries, no reserved code, and every counter inside its width. -/
def Obligations.EveryStepKeepsInvariant : Prop :=
  ∀ s t : State, s.Inv → step s = .next t → t.Inv

/-- 10_state.md R39: in a block built with `PM = None` the parity flag stays 0. -/
def Obligations.ParityFlagStaysClearWithoutParity : Prop :=
  ∀ s t : State, s.Inv → s.parityQuiet → step s = .next t → t.parityQuiet

/-- 30_encoding.md R97, R99 and 40_bit_timing.md R126: from a state that meets the invariant a step's operation is never the
reserved row, a parity row only when `PM ≠ None`, START_WAIT only when `H ≥ 2`. -/
def Obligations.SelectedOperationIsAdmissible : Prop :=
  ∀ s : State, s.Inv →
    s.fetch ≠ .reservedState ∧
    (s.fetch = .parityWait ∨ s.fetch = .paritySample → s.cfg.parityMode ≠ .none) ∧
    (s.fetch = .startWait → 2 ≤ s.cfg.ticksPerHalfBit)

/-- 10_state.md R43: without a reset a step stays in its state or goes to the next one of the frame's fixed order; with one it
goes to IDLE. -/
def Obligations.StatesFollowFrameOrder : Prop :=
  ∀ s t : State, step s = .next t →
    (s.pins.rst = false → t.state ∈ s.state.successors s.cfg.parityMode) ∧ (s.pins.rst = true → t.state = .idle)

/-! ### What does not matter -/

/-- 20_memory.md R71: on a step that does not sample the line (RESET, a wait step, COMPLETE), the level on `rx` has no
effect. -/
def Obligations.LineIgnoredOutsideSampleSteps : Prop :=
  ∀ (s : State) (p : Pins) (rest : List Pins) (level : Level), s.inputs = p :: rest →
    (p.rst = true ∨ s.state = .complete ∨
      (s.due = false ∧ (s.state = .start ∨ s.state = .data ∨ s.state = .parity ∨ s.state = .stop))) →
    step { s with inputs := { p with rx := level } :: rest } = step s

/-- 20_memory.md R77: `frame_ack` in any state but COMPLETE has no effect. -/
def Obligations.AcknowledgeIgnoredOutsideComplete : Prop :=
  ∀ (s : State) (p : Pins) (rest : List Pins) (level : Level), s.inputs = p :: rest → s.state ≠ .complete →
    step { s with inputs := { p with frameAck := level } :: rest } = step s

/-- 60_exceptions.md R211, 41_frame_decoder.md R146, 42_parity_checker.md R173, 43_stop_validator.md R192: inside a frame the
control flow (`state`, `elapsed`, `bitIdx`) depends on neither the levels sampled nor the flags, data and count recorded. -/
def Obligations.ErrorsDoNotSteerTheFrame : Prop :=
  ∀ s s' t t' : State, s.cfg = s'.cfg → s.state = s'.state → s.elapsed = s'.elapsed → s.bitIdx = s'.bitIdx →
    s.pins.rst = s'.pins.rst → s.pins.frameAck = s'.pins.frameAck → s.state ≠ .idle →
    step s = .next t → step s' = .next t' →
    t.state = t'.state ∧ t.elapsed = t'.elapsed ∧ t.bitIdx = t'.bitIdx

/-! ### Waiting and presenting -/

/-- 20_memory.md R76, 43_stop_validator.md R195, 60_exceptions.md R232: while COMPLETE is not acknowledged the block stays
there, for any number of steps, with every register and so every output unchanged, and hands nothing over. -/
def Obligations.PresentedFrameIsStable : Prop :=
  ∀ (s : State) (n : Nat), s.cfg.WellFormed → s.state = .complete →
    (∀ k, k < n → (s.inputAt k).rst = false ∧ (s.inputAt k).frameAck = false) →
    (∃ t, runFor n s = .next t ∧ t.sameRegisters s ∧ t.outputs = s.outputs) ∧ observe n s = []

/-- 41_frame_decoder.md R143, 60_exceptions.md R231: while the line stays 1 the block stays in IDLE, for any number of steps,
with every register unchanged, and hands nothing over. -/
def Obligations.IdleHasNoTimeout : Prop :=
  ∀ (s : State) (n : Nat), s.cfg.WellFormed → s.state = .idle →
    (∀ k, k < n → (s.inputAt k).rst = false ∧ (s.inputAt k).rx = true) →
    (∃ t, runFor n s = .next t ∧ t.sameRegisters s) ∧ observe n s = []

/-- 10_state.md R41, R42: `frame_valid` is 1 exactly in COMPLETE; while it is, the other output ports show the frame
registers; and a frame may be read exactly then. (Nothing is said of the ports while `frame_valid = 0`,
93_implementation_defined.md I3.) -/
def Obligations.OutputsDriveRegisters : Prop :=
  ∀ s : State,
    (s.outputs.frameValid = true ↔ s.state = .complete) ∧
    (s.state = .complete → s.outputs =
      { frameValid := true, frameData := s.data, frameStartErr := s.startErr, frameParityErr := s.parityErr,
        frameStopErr := s.stopErr }) ∧
    (s.presented = some s.frameRegisters ↔ s.state = .complete) ∧ (s.presented = none ↔ s.state ≠ .complete)

/-- 60_exceptions.md R230: a frame is handed over exactly by a step in COMPLETE with `frame_ack = 1` and no reset, and it is
the frame in the registers with this step's tick. -/
def Obligations.HandoverOnlyOnRelease : Prop :=
  ∀ (s : State) (h : HandedOver), s.handover = some h ↔
    (s.state = .complete ∧ s.pins.rst = false ∧ s.pins.frameAck = true ∧
      h = { frame := { data := s.data, startErr := s.startErr, parityErr := s.parityErr, stopErr := s.stopErr },
            tick := s.tick })

/-- 60_exceptions.md R210: a frame's errors are exactly those its flags record, under the ids 0, 1 and `2 + j`, and the ids
tell the errors apart. -/
def Obligations.FrameErrorsAreItsFlags : Prop :=
  (∀ f : Frame, (ErrorCause.startBitError ∈ f.errors ↔ f.startErr = true) ∧
    (ErrorCause.parityError ∈ f.errors ↔ f.parityErr = true) ∧
    ∀ j, ErrorCause.stopBitError j ∈ f.errors ↔ f.stopErr[j]? = some true) ∧
  ErrorCause.startBitError.id = 0 ∧ ErrorCause.parityError.id = 1 ∧
  (∀ j, (ErrorCause.stopBitError j).id = 2 + j) ∧
  ∀ a b : ErrorCause, a.id = b.id → a = b

/-! ### A whole frame -/

/-- 40_bit_timing.md R130: after a detection at tick `n0` and with no reset, the step at tick `n0 + H + k·P` is the sample of
slot `k`, of that tick's levels, and every other step up to the last sample is a wait step of the slot it waits for; the
step at tick `n0 + H + (N−1)·P + 1` is in COMPLETE, the first that is. -/
def Obligations.SlotsAreSampledOnSchedule : Prop :=
  ∀ s : State, s.cfg.WellFormed → s.state = .idle → s.lineRead = false →
    (∀ n, n < s.cfg.completeTick → (s.inputAt n).rst = false) →
    s.fetch = .idleDetect ∧ s.state ≠ .complete ∧
    (∃ t, runFor s.cfg.completeTick s = .next t ∧ t.state = .complete) ∧
    ∀ n k, 1 ≤ n → k < s.cfg.totalBits → (k = 0 ∨ s.cfg.sampleTick (k - 1) < n) → n ≤ s.cfg.sampleTick k →
      ∃ t, runFor n s = .next t ∧ t.pins = s.inputAt n ∧ t.state ≠ .complete ∧
        t.fetch = if n = s.cfg.sampleTick k then slotOperation s.cfg k else slotWait s.cfg k

/-- 30_encoding.md R92, R100, with 40_bit_timing.md R130, 41_frame_decoder.md R145, R151, R152, 42_parity_checker.md R171,
R174 and 43_stop_validator.md R191: from any detection, whatever levels the line has, the block is in COMPLETE exactly
`H + (N−1)·P + 1` ticks later with the frame of the `N` levels it sampled. -/
def Obligations.FrameIsDecodedFromItsSamples : Prop :=
  ∀ s : State, s.cfg.WellFormed → s.state = .idle → s.lineRead = false →
    (∀ n, n < s.cfg.completeTick → (s.inputAt n).rst = false) →
    ∃ t, runFor s.cfg.completeTick s = .next t ∧ t.cfg = s.cfg ∧ t.state = .complete ∧ t.elapsed = 0 ∧ t.bitIdx = 0 ∧
      t.tick = s.tick + s.cfg.completeTick ∧
      t.data.toNat = slotSum s.slotLevel s.cfg.dataBits ∧ t.ones.toNat = popcount t.data ∧
      t.startErr = s.slotLevel 0 ∧
      t.parityErr = (match s.cfg.parityMode with
        | .none => false
        | .even => s.slotLevel (s.cfg.dataBits + 1) != (popcount t.data % 2 == 1)
        | .odd => s.slotLevel (s.cfg.dataBits + 1) == (popcount t.data % 2 == 1)) ∧
      t.stopErr = (List.range s.cfg.stopBits).map
        (fun j => !s.slotLevel (s.cfg.dataBits + 1 + s.cfg.paritySlots + j))

/-- 70_reset_and_hazards.md R260, R250: with `A` COMPLETE_HOLD steps before the acknowledgement, exactly one frame is handed
over, at tick `n0 + H + (N−1)·P + 1 + A`, and the block is in IDLE at tick `n0 + H + (N−1)·P + 2 + A`. -/
def Obligations.HandoverComesAfterTheHolds : Prop :=
  ∀ (s : State) (holds : Nat), s.cfg.WellFormed → s.state = .idle → s.lineRead = false →
    (∀ n, n < s.cfg.completeTick + holds + 1 → (s.inputAt n).rst = false) →
    (∀ n, s.cfg.completeTick ≤ n → n < s.cfg.completeTick + holds → (s.inputAt n).frameAck = false) →
    (s.inputAt (s.cfg.completeTick + holds)).frameAck = true →
    ∃ t u, runFor s.cfg.completeTick s = .next t ∧ runFor (s.cfg.completeTick + holds + 1) s = .next u ∧
      u.state = .idle ∧ u.frameRegisters = t.frameRegisters ∧
      observe (s.cfg.completeTick + holds + 1) s =
        [{ frame := t.frameRegisters, tick := s.tick + s.cfg.completeTick + holds }]

/-- 30_encoding.md R103: a frame sent as `frame <v>` with exact timing (each slot held for `P` ticks) is decoded to `v` with
every flag 0: the decoder of the line inverts the encoder of the line. -/
def Obligations.SentFrameIsReceivedClean : Prop :=
  ∀ (s : State) (v : DataWord) (rest : List Pins), s.cfg.WellFormed → s.state = .idle →
    v.toNat < 2 ^ s.cfg.dataBits →
    s.inputs = ((Segment.frame v none none none).levels s.cfg).map autoPins ++ rest →
    ∃ t, runFor s.cfg.completeTick s = .next t ∧ t.presented = some (cleanFrame s.cfg v)

/-- 70_reset_and_hazards.md R250 with `A = 0`: an unbounded back-to-back stream of frames with exact timing decodes correctly
when `H + 2 ≤ P` (which is `P ≥ 3`): every value sent is handed over, in order, with no errors. -/
def Obligations.BackToBackStreamIsReceived : Prop :=
  ∀ (s : State) (vs : List DataWord) (rest : List Pins), s.cfg.WellFormed →
    s.cfg.ticksPerHalfBit + 2 ≤ s.cfg.ticksPerBit → s.state = .idle → (∀ v ∈ vs, v.toNat < 2 ^ s.cfg.dataBits) →
    s.inputs = (vs.flatMap (fun v => (Segment.frame v none none none).levels s.cfg)).map autoPins ++ rest →
    (observe (vs.length * (s.cfg.totalBits * s.cfg.ticksPerBit)) s).map HandedOver.frame = vs.map (cleanFrame s.cfg)

/-- 70_reset_and_hazards.md R250, in the closed loop of 30_encoding.md R102: a test program of back-to-back `frame <v>`
segments under `ack=delay <A>` with `A ≤ P − H − 2` hands over every value sent, in order, with no errors. -/
def Obligations.DelayedConsumerReceivesBackToBackStream : Prop :=
  ∀ (c : Config) (holds : Nat) (vs : List DataWord), c.WellFormed →
    holds + c.ticksPerHalfBit + 2 ≤ c.ticksPerBit → (∀ v ∈ vs, v.toNat < 2 ^ c.dataBits) →
    ∃ (t : State) (hs : List HandedOver),
      TestProgram.run { cfg := c, consumer := .delay holds, segments := vs.map (fun v => .frame v none none none),
                        endTick := vs.length * (c.totalBits * c.ticksPerBit) } = .next (t, hs) ∧
      hs.map HandedOver.frame = vs.map (cleanFrame c)

/-- 60_exceptions.md R214, 30_encoding.md R100: errors of different kinds are independent: every data value with every
combination of flags (a parity error only where there is a parity slot) is the frame of some line trace from reset. -/
def Obligations.EveryFrameCanBeReceived : Prop :=
  ∀ (c : Config) (f : Frame), c.WellFormed → f.data.toNat < 2 ^ c.dataBits → f.stopErr.length = c.stopBits →
    (c.parityMode = .none → f.parityErr = false) →
    ∃ (levels : List Level) (t : State),
      runFor c.completeTick { State.resetFor c with inputs := levels.map autoPins } = .next t ∧ t.presented = some f

/-- 43_stop_validator.md R198: a line held at 0, acknowledged automatically, makes frames back to back, one every
`H + (N−1)·P + 2` ticks, each with data 0, no start error, every stop error, and a parity error exactly under Odd. -/
def Obligations.LineHeldLowMakesBreakFrames : Prop :=
  ∀ (s : State) (m : Nat), s.cfg.WellFormed → s.state = .idle →
    (∀ n, n < m * (s.cfg.completeTick + 1) → s.inputAt n = autoPins false) →
    observe (m * (s.cfg.completeTick + 1)) s = (List.range m).map (fun k =>
      { frame := { data := 0#32, startErr := false, parityErr := decide (s.cfg.parityMode = .odd),
                   stopErr := List.replicate s.cfg.stopBits true },
        tick := s.tick + k * (s.cfg.completeTick + 1) + s.cfg.completeTick })

/-! ### The line's timing -/

/-- 40_bit_timing.md R131, 70_reset_and_hazards.md R253: a sample of slot `k` falls inside its slot, of any length `T'`, exactly
when `0 ≤ δ_k < T'`; and with `T' = F/B` the condition `H ≥ (N−1)·(T − P)` suffices for a whole frame. -/
def Obligations.SampleMargin : Prop :=
  (∀ (c : Config) (slot edge : ℚ) (n0 k : Nat),
    (edge + k * slot ≤ ((n0 + c.sampleTick k : Nat) : ℚ) ∧ ((n0 + c.sampleTick k : Nat) : ℚ) < edge + (k + 1) * slot) ↔
      (0 ≤ c.sampleOffset slot ((n0 : ℚ) - edge) k ∧ c.sampleOffset slot ((n0 : ℚ) - edge) k < slot)) ∧
  ∀ (c : Config) (late : ℚ) (k : Nat), c.WellFormed → 0 ≤ late → late < 1 → k < c.totalBits →
    ((c.totalBits : ℚ) - 1) * (c.slotLength - c.ticksPerBit) ≤ c.ticksPerHalfBit →
    0 ≤ c.sampleOffset c.slotLength late k ∧ c.sampleOffset c.slotLength late k < c.slotLength

/-- 70_reset_and_hazards.md R250: after `A` holds IDLE resumes by the next back-to-back frame's edge at `n0 + N·P` exactly when
`A ≤ P − H − 2`, and otherwise `L = H + 2 + A − P` ticks after it; with `A = 0` this needs `P ≥ 3`. -/
def Obligations.ConsumerLatencyBound : Prop :=
  ∀ (c : Config) (holds : Nat), c.WellFormed →
    ((c.completeTick + holds + 1 : Nat) : Int) - ((c.totalBits * c.ticksPerBit : Nat) : Int) = c.lateness holds ∧
    (c.completeTick + holds + 1 ≤ c.totalBits * c.ticksPerBit ↔ holds + c.ticksPerHalfBit + 2 ≤ c.ticksPerBit) ∧
    (c.completeTick + 1 ≤ c.totalBits * c.ticksPerBit ↔ 3 ≤ c.ticksPerBit)

/-- 30_encoding.md R102, the consumer of a test program, on a step in any state after `before` consecutive steps in COMPLETE:
`ack=auto` acknowledges on every step, `ack=never` on none, and `ack=delay <a>` on the `(a+1)`-th consecutive step in
COMPLETE and on no other, so never outside COMPLETE; and a tick of the closed loop is a step with exactly this level. -/
def Obligations.ConsumerAcknowledges : Prop :=
  ∀ (s : State) (before a : Nat),
    Consumer.auto.ack (s.completeStep before) = true ∧ Consumer.never.ack (s.completeStep before) = false ∧
    ((Consumer.delay a).ack (s.completeStep before) = true ↔ (s.state = .complete ∧ before = a)) ∧
    ∀ (k : Consumer) (l : Level) (t : State),
      let s₁ : State := { s with inputs := [{ rst := false, rx := l, frameAck := k.ack (s.completeStep before) }] }
      step s₁ = .next t → runLoop k [l] before s = .next (t, s₁.handover.toList)
end

