-- ==== Sys2Proof/Laws/State.lean ====
section
/-! SUPPORT. One lemma per field per operation of Machine/Ops.lean, so that no proof unfolds a record update. -/

namespace Sys2Proof.Machine.State

@[simp] theorem restart_cfg (s : State) : (s.restart).cfg = s.cfg := rfl
@[simp] theorem restart_state (s : State) : (s.restart).state = s.state := rfl
@[simp] theorem restart_elapsed (s : State) : (s.restart).elapsed = 0 := rfl
@[simp] theorem restart_bitIdx (s : State) : (s.restart).bitIdx = s.bitIdx := rfl
@[simp] theorem restart_data (s : State) : (s.restart).data = s.data := rfl
@[simp] theorem restart_ones (s : State) : (s.restart).ones = s.ones := rfl
@[simp] theorem restart_startErr (s : State) : (s.restart).startErr = s.startErr := rfl
@[simp] theorem restart_parityErr (s : State) : (s.restart).parityErr = s.parityErr := rfl
@[simp] theorem restart_stopErr (s : State) : (s.restart).stopErr = s.stopErr := rfl
@[simp] theorem restart_inputs (s : State) : (s.restart).inputs = s.inputs := rfl
@[simp] theorem restart_draws (s : State) : (s.restart).draws = s.draws := rfl
@[simp] theorem restart_tick (s : State) : (s.restart).tick = s.tick := rfl

@[simp] theorem countTick_cfg (s : State) : (s.countTick).cfg = s.cfg := rfl
@[simp] theorem countTick_state (s : State) : (s.countTick).state = s.state := rfl
@[simp] theorem countTick_elapsed (s : State) : (s.countTick).elapsed = cutTo s.cfg.elapsedWidth (s.elapsed + 1) := rfl
@[simp] theorem countTick_bitIdx (s : State) : (s.countTick).bitIdx = s.bitIdx := rfl
@[simp] theorem countTick_data (s : State) : (s.countTick).data = s.data := rfl
@[simp] theorem countTick_ones (s : State) : (s.countTick).ones = s.ones := rfl
@[simp] theorem countTick_startErr (s : State) : (s.countTick).startErr = s.startErr := rfl
@[simp] theorem countTick_parityErr (s : State) : (s.countTick).parityErr = s.parityErr := rfl
@[simp] theorem countTick_stopErr (s : State) : (s.countTick).stopErr = s.stopErr := rfl
@[simp] theorem countTick_inputs (s : State) : (s.countTick).inputs = s.inputs := rfl
@[simp] theorem countTick_draws (s : State) : (s.countTick).draws = s.draws := rfl
@[simp] theorem countTick_tick (s : State) : (s.countTick).tick = s.tick := rfl

@[simp] theorem goTo_cfg (s : State) (q : FsmState) : (s.goTo q).cfg = s.cfg := rfl
@[simp] theorem goTo_state (s : State) (q : FsmState) : (s.goTo q).state = q := rfl
@[simp] theorem goTo_elapsed (s : State) (q : FsmState) : (s.goTo q).elapsed = s.elapsed := rfl
@[simp] theorem goTo_bitIdx (s : State) (q : FsmState) : (s.goTo q).bitIdx = s.bitIdx := rfl
@[simp] theorem goTo_data (s : State) (q : FsmState) : (s.goTo q).data = s.data := rfl
@[simp] theorem goTo_ones (s : State) (q : FsmState) : (s.goTo q).ones = s.ones := rfl
@[simp] theorem goTo_startErr (s : State) (q : FsmState) : (s.goTo q).startErr = s.startErr := rfl
@[simp] theorem goTo_parityErr (s : State) (q : FsmState) : (s.goTo q).parityErr = s.parityErr := rfl
@[simp] theorem goTo_stopErr (s : State) (q : FsmState) : (s.goTo q).stopErr = s.stopErr := rfl
@[simp] theorem goTo_inputs (s : State) (q : FsmState) : (s.goTo q).inputs = s.inputs := rfl
@[simp] theorem goTo_draws (s : State) (q : FsmState) : (s.goTo q).draws = s.draws := rfl
@[simp] theorem goTo_tick (s : State) (q : FsmState) : (s.goTo q).tick = s.tick := rfl

@[simp] theorem setBitIdx_cfg (s : State) (n : Nat) : (s.setBitIdx n).cfg = s.cfg := rfl
@[simp] theorem setBitIdx_state (s : State) (n : Nat) : (s.setBitIdx n).state = s.state := rfl
@[simp] theorem setBitIdx_elapsed (s : State) (n : Nat) : (s.setBitIdx n).elapsed = s.elapsed := rfl
@[simp] theorem setBitIdx_bitIdx (s : State) (n : Nat) : (s.setBitIdx n).bitIdx = cutTo s.cfg.bitIdxWidth n := rfl
@[simp] theorem setBitIdx_data (s : State) (n : Nat) : (s.setBitIdx n).data = s.data := rfl
@[simp] theorem setBitIdx_ones (s : State) (n : Nat) : (s.setBitIdx n).ones = s.ones := rfl
@[simp] theorem setBitIdx_startErr (s : State) (n : Nat) : (s.setBitIdx n).startErr = s.startErr := rfl
@[simp] theorem setBitIdx_parityErr (s : State) (n : Nat) : (s.setBitIdx n).parityErr = s.parityErr := rfl
@[simp] theorem setBitIdx_stopErr (s : State) (n : Nat) : (s.setBitIdx n).stopErr = s.stopErr := rfl
@[simp] theorem setBitIdx_inputs (s : State) (n : Nat) : (s.setBitIdx n).inputs = s.inputs := rfl
@[simp] theorem setBitIdx_draws (s : State) (n : Nat) : (s.setBitIdx n).draws = s.draws := rfl
@[simp] theorem setBitIdx_tick (s : State) (n : Nat) : (s.setBitIdx n).tick = s.tick := rfl

@[simp] theorem writeDataBit_cfg (s : State) (b : Level) : (s.writeDataBit b).cfg = s.cfg := rfl
@[simp] theorem writeDataBit_state (s : State) (b : Level) : (s.writeDataBit b).state = s.state := rfl
@[simp] theorem writeDataBit_elapsed (s : State) (b : Level) : (s.writeDataBit b).elapsed = s.elapsed := rfl
@[simp] theorem writeDataBit_bitIdx (s : State) (b : Level) : (s.writeDataBit b).bitIdx = s.bitIdx := rfl
@[simp] theorem writeDataBit_data (s : State) (b : Level) : (s.writeDataBit b).data = setBit s.data s.bitIdx b := rfl
@[simp] theorem writeDataBit_ones (s : State) (b : Level) : (s.writeDataBit b).ones = s.ones := rfl
@[simp] theorem writeDataBit_startErr (s : State) (b : Level) : (s.writeDataBit b).startErr = s.startErr := rfl
@[simp] theorem writeDataBit_parityErr (s : State) (b : Level) : (s.writeDataBit b).parityErr = s.parityErr := rfl
@[simp] theorem writeDataBit_stopErr (s : State) (b : Level) : (s.writeDataBit b).stopErr = s.stopErr := rfl
@[simp] theorem writeDataBit_inputs (s : State) (b : Level) : (s.writeDataBit b).inputs = s.inputs := rfl
@[simp] theorem writeDataBit_draws (s : State) (b : Level) : (s.writeDataBit b).draws = s.draws := rfl
@[simp] theorem writeDataBit_tick (s : State) (b : Level) : (s.writeDataBit b).tick = s.tick := rfl

@[simp] theorem countOne_cfg (s : State) (b : Level) : (s.countOne b).cfg = s.cfg := rfl
@[simp] theorem countOne_state (s : State) (b : Level) : (s.countOne b).state = s.state := rfl
@[simp] theorem countOne_elapsed (s : State) (b : Level) : (s.countOne b).elapsed = s.elapsed := rfl
@[simp] theorem countOne_bitIdx (s : State) (b : Level) : (s.countOne b).bitIdx = s.bitIdx := rfl
@[simp] theorem countOne_data (s : State) (b : Level) : (s.countOne b).data = s.data := rfl
@[simp] theorem countOne_ones (s : State) (b : Level) : (s.countOne b).ones = s.ones + (if b then 1#6 else 0#6) := rfl
@[simp] theorem countOne_startErr (s : State) (b : Level) : (s.countOne b).startErr = s.startErr := rfl
@[simp] theorem countOne_parityErr (s : State) (b : Level) : (s.countOne b).parityErr = s.parityErr := rfl
@[simp] theorem countOne_stopErr (s : State) (b : Level) : (s.countOne b).stopErr = s.stopErr := rfl
@[simp] theorem countOne_inputs (s : State) (b : Level) : (s.countOne b).inputs = s.inputs := rfl
@[simp] theorem countOne_draws (s : State) (b : Level) : (s.countOne b).draws = s.draws := rfl
@[simp] theorem countOne_tick (s : State) (b : Level) : (s.countOne b).tick = s.tick := rfl

@[simp] theorem setStartErr_cfg (s : State) (e : Level) : (s.setStartErr e).cfg = s.cfg := rfl
@[simp] theorem setStartErr_state (s : State) (e : Level) : (s.setStartErr e).state = s.state := rfl
@[simp] theorem setStartErr_elapsed (s : State) (e : Level) : (s.setStartErr e).elapsed = s.elapsed := rfl
@[simp] theorem setStartErr_bitIdx (s : State) (e : Level) : (s.setStartErr e).bitIdx = s.bitIdx := rfl
@[simp] theorem setStartErr_data (s : State) (e : Level) : (s.setStartErr e).data = s.data := rfl
@[simp] theorem setStartErr_ones (s : State) (e : Level) : (s.setStartErr e).ones = s.ones := rfl
@[simp] theorem setStartErr_startErr (s : State) (e : Level) : (s.setStartErr e).startErr = e := rfl
@[simp] theorem setStartErr_parityErr (s : State) (e : Level) : (s.setStartErr e).parityErr = s.parityErr := rfl
@[simp] theorem setStartErr_stopErr (s : State) (e : Level) : (s.setStartErr e).stopErr = s.stopErr := rfl
@[simp] theorem setStartErr_inputs (s : State) (e : Level) : (s.setStartErr e).inputs = s.inputs := rfl
@[simp] theorem setStartErr_draws (s : State) (e : Level) : (s.setStartErr e).draws = s.draws := rfl
@[simp] theorem setStartErr_tick (s : State) (e : Level) : (s.setStartErr e).tick = s.tick := rfl

@[simp] theorem setParityErr_cfg (s : State) (e : Level) : (s.setParityErr e).cfg = s.cfg := rfl
@[simp] theorem setParityErr_state (s : State) (e : Level) : (s.setParityErr e).state = s.state := rfl
@[simp] theorem setParityErr_elapsed (s : State) (e : Level) : (s.setParityErr e).elapsed = s.elapsed := rfl
@[simp] theorem setParityErr_bitIdx (s : State) (e : Level) : (s.setParityErr e).bitIdx = s.bitIdx := rfl
@[simp] theorem setParityErr_data (s : State) (e : Level) : (s.setParityErr e).data = s.data := rfl
@[simp] theorem setParityErr_ones (s : State) (e : Level) : (s.setParityErr e).ones = s.ones := rfl
@[simp] theorem setParityErr_startErr (s : State) (e : Level) : (s.setParityErr e).startErr = s.startErr := rfl
@[simp] theorem setParityErr_parityErr (s : State) (e : Level) : (s.setParityErr e).parityErr = e := rfl
@[simp] theorem setParityErr_stopErr (s : State) (e : Level) : (s.setParityErr e).stopErr = s.stopErr := rfl
@[simp] theorem setParityErr_inputs (s : State) (e : Level) : (s.setParityErr e).inputs = s.inputs := rfl
@[simp] theorem setParityErr_draws (s : State) (e : Level) : (s.setParityErr e).draws = s.draws := rfl
@[simp] theorem setParityErr_tick (s : State) (e : Level) : (s.setParityErr e).tick = s.tick := rfl

@[simp] theorem setStopErr_cfg (s : State) (e : Level) : (s.setStopErr e).cfg = s.cfg := rfl
@[simp] theorem setStopErr_state (s : State) (e : Level) : (s.setStopErr e).state = s.state := rfl
@[simp] theorem setStopErr_elapsed (s : State) (e : Level) : (s.setStopErr e).elapsed = s.elapsed := rfl
@[simp] theorem setStopErr_bitIdx (s : State) (e : Level) : (s.setStopErr e).bitIdx = s.bitIdx := rfl
@[simp] theorem setStopErr_data (s : State) (e : Level) : (s.setStopErr e).data = s.data := rfl
@[simp] theorem setStopErr_ones (s : State) (e : Level) : (s.setStopErr e).ones = s.ones := rfl
@[simp] theorem setStopErr_startErr (s : State) (e : Level) : (s.setStopErr e).startErr = s.startErr := rfl
@[simp] theorem setStopErr_parityErr (s : State) (e : Level) : (s.setStopErr e).parityErr = s.parityErr := rfl
@[simp] theorem setStopErr_stopErr (s : State) (e : Level) : (s.setStopErr e).stopErr = s.stopErr.set s.bitIdx e := rfl
@[simp] theorem setStopErr_inputs (s : State) (e : Level) : (s.setStopErr e).inputs = s.inputs := rfl
@[simp] theorem setStopErr_draws (s : State) (e : Level) : (s.setStopErr e).draws = s.draws := rfl
@[simp] theorem setStopErr_tick (s : State) (e : Level) : (s.setStopErr e).tick = s.tick := rfl

@[simp] theorem clearFrame_cfg (s : State) : (s.clearFrame).cfg = s.cfg := rfl
@[simp] theorem clearFrame_state (s : State) : (s.clearFrame).state = s.state := rfl
@[simp] theorem clearFrame_elapsed (s : State) : (s.clearFrame).elapsed = s.elapsed := rfl
@[simp] theorem clearFrame_bitIdx (s : State) : (s.clearFrame).bitIdx = 0 := rfl
@[simp] theorem clearFrame_data (s : State) : (s.clearFrame).data = 0#32 := rfl
@[simp] theorem clearFrame_ones (s : State) : (s.clearFrame).ones = 0#6 := rfl
@[simp] theorem clearFrame_startErr (s : State) : (s.clearFrame).startErr = false := rfl
@[simp] theorem clearFrame_parityErr (s : State) : (s.clearFrame).parityErr = false := rfl
@[simp] theorem clearFrame_stopErr (s : State) : (s.clearFrame).stopErr = List.replicate s.cfg.stopBits false := rfl
@[simp] theorem clearFrame_inputs (s : State) : (s.clearFrame).inputs = s.inputs := rfl
@[simp] theorem clearFrame_draws (s : State) : (s.clearFrame).draws = s.draws := rfl
@[simp] theorem clearFrame_tick (s : State) : (s.clearFrame).tick = s.tick := rfl

@[simp] theorem clockTick_cfg (s : State) : (s.clockTick).cfg = s.cfg := rfl
@[simp] theorem clockTick_state (s : State) : (s.clockTick).state = s.state := rfl
@[simp] theorem clockTick_elapsed (s : State) : (s.clockTick).elapsed = s.elapsed := rfl
@[simp] theorem clockTick_bitIdx (s : State) : (s.clockTick).bitIdx = s.bitIdx := rfl
@[simp] theorem clockTick_data (s : State) : (s.clockTick).data = s.data := rfl
@[simp] theorem clockTick_ones (s : State) : (s.clockTick).ones = s.ones := rfl
@[simp] theorem clockTick_startErr (s : State) : (s.clockTick).startErr = s.startErr := rfl
@[simp] theorem clockTick_parityErr (s : State) : (s.clockTick).parityErr = s.parityErr := rfl
@[simp] theorem clockTick_stopErr (s : State) : (s.clockTick).stopErr = s.stopErr := rfl
@[simp] theorem clockTick_inputs (s : State) : (s.clockTick).inputs = s.inputs.tail := rfl
@[simp] theorem clockTick_draws (s : State) : (s.clockTick).draws = s.draws + 1 := rfl
@[simp] theorem clockTick_tick (s : State) : (s.clockTick).tick = if s.pins.rst then 0 else s.tick + 1 := rfl

end Sys2Proof.Machine.State
end

