-- ==== Sys2Proof/Laws/Ops.lean ====
section
/-! SUPPORT. What the shared operations do, said once: widths, the data bit, the input stream, the selector, and the step. -/

namespace Sys2Proof.Machine

/-! ### Widths -/

theorem le_two_pow_ceilLog2 (n : Nat) : n ≤ 2 ^ Config.ceilLog2 n := by
  unfold Config.ceilLog2
  split
  · omega
  · have := Nat.lt_log2_self (n := n - 1)
    omega

theorem cutTo_lt (w n : Nat) : cutTo w n < 2 ^ w := Nat.mod_lt _ (by positivity)

theorem cutTo_of_lt {w n : Nat} (h : n < 2 ^ w) : cutTo w n = n := Nat.mod_eq_of_lt h

@[simp] theorem cutTo_zero (w : Nat) : cutTo w 0 = 0 := Nat.zero_mod _

theorem ticksPerBit_le_elapsed (c : Config) : c.ticksPerBit ≤ 2 ^ c.elapsedWidth :=
  (le_two_pow_ceilLog2 _).trans (Nat.pow_le_pow_right (by omega) (le_max_right _ _))

theorem dataBits_le_bitIdx (c : Config) : c.dataBits ≤ 2 ^ c.bitIdxWidth :=
  (le_max_left _ _).trans ((le_two_pow_ceilLog2 _).trans (Nat.pow_le_pow_right (by omega) (le_max_right _ _)))

theorem stopBits_le_bitIdx (c : Config) : c.stopBits ≤ 2 ^ c.bitIdxWidth :=
  (le_max_right _ _).trans ((le_two_pow_ceilLog2 _).trans (Nat.pow_le_pow_right (by omega) (le_max_right _ _)))

theorem wellFormed_iff (c : Config) : c.WellFormed ↔
    1 ≤ c.tickHz ∧ 1 ≤ c.baud ∧ 1 ≤ c.dataBits ∧ c.dataBits ≤ 32 ∧ 1 ≤ c.stopBits ∧ 1 ≤ c.ticksPerBit ∧
      1 ≤ c.ticksPerHalfBit := by
  simp [Config.WellFormed, Config.wellFormed, and_assoc]

theorem ticksPerHalfBit_le (c : Config) : c.ticksPerHalfBit ≤ c.ticksPerBit := Nat.div_le_self _ _

/-! ### The data register -/

theorem getLsbD_setBit (v : DataWord) (i k : Nat) (b : Level) (hk : k < 32) :
    (setBit v i b).getLsbD k = if k = i then b else v.getLsbD k := by
  by_cases h : k = i
  · subst h; cases b <;> simp [setBit, hk]
  · cases b <;> simp [setBit, hk, h]

/-! ### The input stream -/

theorem inputAt_clockTick (s : State) (n : Nat) : s.clockTick.inputAt n = s.inputAt (n + 1) := by
  unfold State.inputAt
  simp only [State.clockTick_inputs, State.clockTick_draws, List.getElem?_tail]
  congr 2
  omega

theorem inputAt_congr {s t : State} (hi : s.inputs = t.inputs) (hd : s.draws = t.draws) (n : Nat) :
    s.inputAt n = t.inputAt n := by
  simp [State.inputAt, hi, hd]

/-! ### The selector -/

theorem selector_fields (r d x a : Bool) (q : FsmState) :
    decodeSelector (BitVec.ofBool r ++ q.code ++ BitVec.ofBool d ++ BitVec.ofBool x ++ BitVec.ofBool a) =
      if r then .reset else
        match q with
        | .idle => if x then .idleHold else .idleDetect
        | .start => if d then .startSample else .startWait
        | .data => if d then .dataSample else .dataWait
        | .parity => if d then .paritySample else .parityWait
        | .stop => if d then .stopSample else .stopWait
        | .complete => if a then .completeRelease else .completeHold
        | .reserved6 => .reservedState
        | .reserved7 => .reservedState := by
  cases q <;> revert r d x a <;> decide

/-- The operation of a step, from the pins, the FSM state and the due test. -/
theorem fetch_eq (s : State) :
    s.fetch = if s.pins.rst then .reset else
        match s.state with
        | .idle => if s.pins.rx then .idleHold else .idleDetect
        | .start => if s.due then .startSample else .startWait
        | .data => if s.due then .dataSample else .dataWait
        | .parity => if s.due then .paritySample else .parityWait
        | .stop => if s.due then .stopSample else .stopWait
        | .complete => if s.pins.frameAck then .completeRelease else .completeHold
        | .reserved6 => .reservedState
        | .reserved7 => .reservedState :=
  selector_fields _ _ _ _ _

/-! ### What every operation leaves alone, and the step -/

/-- Every operation answers a next state, and leaves the configuration, the inputs and the time alone. -/
theorem exec_cases (i : Instr) (s : State) :
    ∃ t, exec i s = .next t ∧ t.cfg = s.cfg ∧ t.inputs = s.inputs ∧ t.draws = s.draws ∧ t.tick = s.tick := by
  cases i
  case dataSample =>
    simp only [exec, execDataSample]
    split <;> exact ⟨_, rfl, rfl, rfl, rfl, rfl⟩
  case stopSample =>
    simp only [exec, execStopSample]
    split <;> exact ⟨_, rfl, rfl, rfl, rfl, rfl⟩
  all_goals exact ⟨_, rfl, rfl, rfl, rfl, rfl⟩

/-- A step that answers a next state ran its operation and then ended the tick. -/
theorem step_cases {s t : State} (h : step s = .next t) :
    s.cfg.WellFormed ∧ ∃ u, exec s.fetch s = .next u ∧ t = u.clockTick := by
  unfold step at h
  split at h
  · obtain ⟨u, hu, -⟩ := exec_cases s.fetch s
    rw [hu] at h
    cases h
    exact ⟨‹_›, u, hu, rfl⟩
  · cases h

/-- The step of a well-formed block whose operation answers `u`. -/
theorem step_of_exec {s u : State} (hw : s.cfg.WellFormed) (hu : exec s.fetch s = .next u) :
    step s = .next u.clockTick := by
  simp only [step, hw, if_true, hu]

/-- A step moves the input stream on by one tick and keeps the configuration. -/
theorem step_stream {s t : State} (h : step s = .next t) :
    t.cfg = s.cfg ∧ t.draws = s.draws + 1 ∧ (∀ n, t.inputAt n = s.inputAt (n + 1)) ∧
      t.tick = if s.pins.rst then 0 else s.tick + 1 := by
  obtain ⟨-, u, hu, rfl⟩ := step_cases h
  obtain ⟨u', hu', hc, hi, hd, ht⟩ := exec_cases s.fetch s
  obtain rfl : u' = u := by rw [hu] at hu'; cases hu'; rfl
  refine ⟨by simp [hc], by simp [hd], fun n => ?_, ?_⟩
  · rw [inputAt_clockTick, inputAt_congr hi hd]
  · rw [State.clockTick_tick, ht, State.pins, State.pins, inputAt_congr hi hd]

/-! ### Runs -/

/-- The host's run, unfolded once. -/
theorem run_succ_eq (n : Nat) (s : State) :
    runFor (n + 1) s = match step s with
      | .next t => runFor n t
      | .fault f => .fault f
      | .refused r => .refused r := by
  refine (Host.Core.run.eq_2 Sys2Proof.core s n).trans ?_
  have h : Sys2Proof.core.step s = step s := rfl
  rw [h]
  cases step s with
  | next t => rfl
  | fault f => cases f
  | refused r => rfl

theorem run_succ {n : Nat} {s t : State} (h : step s = .next t) : runFor (n + 1) s = runFor n t := by
  rw [run_succ_eq, h]

theorem run_add {m n : Nat} {s t : State} (h : runFor m s = .next t) : runFor (m + n) s = runFor n t := by
  induction m generalizing s with
  | zero => cases h; simp
  | succ m ih =>
    rw [run_succ_eq] at h
    cases hst : step s with
    | next u => rw [hst] at h; rw [show m + 1 + n = (m + n) + 1 by omega, run_succ hst]; exact ih h
    | fault f => rw [hst] at h; cases h
    | refused f => rw [hst] at h; cases h

end Sys2Proof.Machine
end

