-- ==== Sys2Proof/Laws/Data.lean ====
section
/-! SUPPORT. The data register and the count of its 1 bits: what one DATA_SAMPLE write does to both. -/

namespace Sys2Proof.Machine

/-- Setting one bit that was 0 adds that bit to a count. -/
theorem countP_update (f : Nat → Bool) (b : Bool) (i n : Nat) (hf : f i = false) :
    (List.range n).countP (fun k => if k = i then b else f k) =
      (List.range n).countP f + (if i < n ∧ b = true then 1 else 0) := by
  induction n with
  | zero => simp
  | succ n ih =>
    rw [List.range_succ, List.countP_append, List.countP_append, ih]
    by_cases h : n = i
    · subst h; cases b <;> simp [hf]
    · have : i < n + 1 ↔ i < n := by omega
      simp [h, this]; omega

/-- A word below `2^i` has no bit at or above `i`. -/
theorem getLsbD_false_of_lt {v : DataWord} {i k : Nat} (h : v.toNat < 2 ^ i) (hk : i ≤ k) : v.getLsbD k = false :=
  Nat.testBit_lt_two_pow (h.trans_le (Nat.pow_le_pow_right (by omega) hk))

/-- A word with no bit at or above `i` is below `2^i`. -/
theorem toNat_lt_of_getLsbD {v : DataWord} {i : Nat} (h : ∀ k, i ≤ k → k < 32 → v.getLsbD k = false) : v.toNat < 2 ^ i := by
  apply Nat.lt_pow_two_of_testBit
  intro k hk
  by_cases h32 : k < 32
  · exact h k hk h32
  · exact Nat.testBit_lt_two_pow (v.isLt.trans_le (Nat.pow_le_pow_right (by omega) (by omega)))

/-- DATA_SAMPLE's write keeps `ones = popcount(data)`: the bit it writes was 0 before. -/
theorem popcount_setBit {v : DataWord} {i : Nat} (b : Bool) (hi : i < 32) (h : v.toNat < 2 ^ i) :
    popcount (setBit v i b) = popcount v + (if b then 1 else 0) := by
  have := countP_update (fun k => v.getLsbD k) b i 32 (getLsbD_false_of_lt h le_rfl)
  unfold popcount
  rw [List.countP_congr (q := fun k => if k = i then b else v.getLsbD k)]
  · rw [this]; simp [hi]
  · intro k hk
    rw [getLsbD_setBit _ _ _ _ (List.mem_range.1 hk)]

/-- Writing bit `i` of a word below `2^i` gives a word below `2^(i+1)`. -/
theorem setBit_lt {v : DataWord} {i : Nat} (b : Bool) (h : v.toNat < 2 ^ i) : (setBit v i b).toNat < 2 ^ (i + 1) := by
  apply toNat_lt_of_getLsbD
  intro k hk h32
  rw [getLsbD_setBit _ _ _ _ h32, if_neg (by omega), getLsbD_false_of_lt h (by omega)]

/-- A word below `2^i` has at most `i` bits 1. -/
theorem popcount_le {v : DataWord} {i : Nat} (h : v.toNat < 2 ^ i) (hi : i ≤ 32) : popcount v ≤ i := by
  unfold popcount
  have : List.range 32 = List.range i ++ (List.range' i (32 - i)) := by
    have h := List.range_add (n := i) (m := 32 - i)
    rw [show i + (32 - i) = 32 by omega] at h
    rw [h, List.range'_eq_map_range]
  rw [this, List.countP_append]
  have h0 : (List.range' i (32 - i)).countP (fun k => v.getLsbD k) = 0 := by
    rw [List.countP_eq_zero]
    intro k hk
    rw [List.mem_range'_1] at hk
    rw [getLsbD_false_of_lt h hk.1]; simp
  have := List.countP_le_length (p := fun k => v.getLsbD k) (l := List.range i)
  rw [List.length_range] at this
  omega

/-- Writing bit `i` of a word below `2^i` adds `b · 2^i` (30_encoding.md R92). -/
theorem setBit_toNat {v : DataWord} {i : Nat} (b : Bool) (hi : i < 32) (h : v.toNat < 2 ^ i) :
    (setBit v i b).toNat = v.toNat + (if b then 2 ^ i else 0) := by
  cases b
  · have : setBit v i false = v := by
      apply BitVec.eq_of_getLsbD_eq
      intro k hk
      rw [getLsbD_setBit _ _ _ _ hk]
      split
      · subst k; exact (getLsbD_false_of_lt h le_rfl).symm
      · rfl
    simp [this]
  · simp only [setBit, if_true, BitVec.toNat_or, BitVec.toNat_twoPow]
    have h2 : 2 ^ i % 2 ^ 32 = 2 ^ i := Nat.mod_eq_of_lt (Nat.pow_lt_pow_right (by omega) hi)
    rw [h2, Nat.or_comm]
    have h3 := Nat.two_pow_add_eq_or_of_lt h 1
    rw [Nat.mul_one] at h3
    rw [← h3, Nat.add_comm]

/-- The bits of a word below `2^D` are counted in its low `D` places. -/
theorem popcount_low {v : DataWord} {D : Nat} (h : v.toNat < 2 ^ D) (hD : D ≤ 32) :
    popcount v = (List.range D).countP (fun i => v.getLsbD i) := by
  unfold popcount
  have h' := List.range_add (n := D) (m := 32 - D)
  rw [show D + (32 - D) = 32 by omega] at h'
  rw [h', List.countP_append]
  have h0 : ((List.range (32 - D)).map (D + ·)).countP (fun k => v.getLsbD k) = 0 := by
    rw [List.countP_eq_zero]
    intro k hk
    simp at hk
    obtain ⟨a, ha, rfl⟩ := hk
    rw [getLsbD_false_of_lt h (by omega)]; simp
  omega

/-- The sum of 30_encoding.md R92 over the bits of `v` is `v`, cut to `n` bits. -/
theorem slotSum_bits (v : Nat) (n : Nat) (L : Nat → Bool) (h : ∀ i, i < n → L (1 + i) = v.testBit i) : slotSum L n = v % 2 ^ n := by
  induction n with
  | zero => simp [slotSum, Nat.mod_one]
  | succ n ih =>
    rw [slotSum, ih (fun i hi => h i (by omega)), h n (by omega), Nat.pow_succ, Nat.mod_mul, Nat.testBit_eq_decide_div_mod_eq]
    rcases Nat.mod_two_eq_zero_or_one (v / 2 ^ n) with h | h <;> simp [h]

end Sys2Proof.Machine
end

