-- ==== Sys2Proof/Laws/Runs.lean ====
section
/-! SUPPORT. Runs of several steps: their configuration, input stream, tick and observation, and the wait loop of a timed
state. -/

namespace Sys2Proof.Machine

/-- A well-formed block's step answers a next state. -/
theorem step_total {s : State} (hw : s.cfg.WellFormed) : ∃ t, step s = .next t := by
  obtain ⟨u, hu, -⟩ := exec_cases s.fetch s
  exact ⟨_, step_of_exec hw hu⟩

/-- A run never changes the configuration. -/
theorem run_cfg {n : Nat} {s t : State} (h : runFor n s = .next t) : t.cfg = s.cfg := by
  induction n generalizing s with
  | zero => cases h; rfl
  | succ n ih =>
    rw [run_succ_eq] at h
    cases hst : step s with
    | next u => rw [hst] at h; exact (ih h).trans (step_stream hst).1
    | fault f => cases f
    | refused r => rw [hst] at h; cases h

/-- A run of `n` steps moves the input stream on by `n` ticks. -/
theorem run_stream {n : Nat} {s t : State} (h : runFor n s = .next t) (m : Nat) : t.inputAt m = s.inputAt (n + m) := by
  induction n generalizing s with
  | zero => cases h; simp
  | succ n ih =>
    rw [run_succ_eq] at h
    cases hst : step s with
    | next u =>
      rw [hst] at h
      obtain ⟨-, -, hi, -⟩ := step_stream hst
      rw [ih h, hi]; congr 1; omega
    | fault f => cases f
    | refused r => rw [hst] at h; cases h

/-- A run of `n` steps without a reset counts `n` ticks. -/
theorem run_tick {n : Nat} {s t : State} (h : runFor n s = .next t) (hr : ∀ k, k < n → (s.inputAt k).rst = false) : t.tick = s.tick + n := by
  induction n generalizing s with
  | zero => cases h; simp
  | succ n ih =>
    rw [run_succ_eq] at h
    cases hst : step s with
    | next u =>
      rw [hst] at h
      obtain ⟨-, -, hi, ht⟩ := step_stream hst
      rw [ih h (fun k hk => by rw [hi]; exact hr _ (by omega)), ht, State.pins, hr 0 (by omega)]; simp; omega
    | fault f => cases f
    | refused r => rw [hst] at h; cases h

/-- One step's observation, then the rest's. -/
theorem observe_succ {n : Nat} {s t : State} (h : step s = .next t) : observe (n + 1) s = s.handover.toList ++ observe n t := by
  simp [observe, h]

/-- The observation of a run in two parts. -/
theorem observe_add {m n : Nat} {s t : State} (h : runFor m s = .next t) : observe (m + n) s = observe m s ++ observe n t := by
  induction m generalizing s with
  | zero => cases h; simp [observe]
  | succ m ih =>
    rw [run_succ_eq] at h
    cases hst : step s with
    | next u =>
      rw [hst] at h
      rw [show m + 1 + n = (m + n) + 1 by omega, observe_succ hst, observe_succ hst, ih h, List.append_assoc]
    | fault f => cases f
    | refused r => rw [hst] at h; cases h

/-- A run none of whose steps hands a frame over observes nothing. -/
theorem observe_nil {m : Nat} {s : State} (hw : s.cfg.WellFormed)
    (H : ∀ n, n < m → ∃ t, runFor n s = .next t ∧ t.handover = none) : observe m s = [] := by
  induction m with
  | zero => rfl
  | succ m ih =>
    obtain ⟨t, ht, hh⟩ := H m (by omega)
    rw [observe_add ht, ih (fun n hn => H n (by omega))]
    obtain ⟨u, hu⟩ := step_total (s := t) (by rw [run_cfg ht]; exact hw)
    rw [observe_succ hu, hh]; rfl

/-- A run of `n` steps uses up the first `n` listed input levels. -/
theorem run_inputs {n : Nat} {s t : State} (h : runFor n s = .next t) : t.inputs = s.inputs.drop n := by
  induction n generalizing s with
  | zero => cases h; simp
  | succ n ih =>
    rw [run_succ_eq] at h
    cases hst : step s with
    | next u =>
      rw [hst] at h
      rw [ih h]
      obtain ⟨-, v, hv, rfl⟩ := step_cases hst
      obtain ⟨v', hv', -, hi, -⟩ := exec_cases s.fetch s
      rw [hv] at hv'; cases hv'
      simp [hi]
    | fault f => cases f
    | refused r => rw [hst] at h; cases h

/-- `t` is reached from `s0` after `n` steps without a reset. -/
structure Prog (s0 : State) (n : Nat) (t : State) : Prop where
  run : runFor n s0 = .next t
  cfg : t.cfg = s0.cfg
  tick : t.tick = s0.tick + n
  inp : ∀ m, t.inputAt m = s0.inputAt (n + m)

/-- No step. -/
theorem Prog.zero (s : State) : Prog s 0 s := ⟨rfl, rfl, rfl, fun m => by simp⟩

/-- One step more. -/
theorem Prog.step {s0 : State} {n} {t u : State} (h : Prog s0 n t) (hw : s0.cfg.WellFormed) (hr : (s0.inputAt n).rst = false)
    (he : exec t.fetch t = .next u) : Prog s0 (n + 1) u.clockTick := by
  have hs := step_of_exec (by rw [h.cfg]; exact hw) he
  obtain ⟨a, b, c, d⟩ := step_stream hs
  refine ⟨?_, a.trans h.cfg, ?_, ?_⟩
  · rw [run_add h.run]
    rw [show (1 : Nat) = 0 + 1 by rfl, run_succ hs]; rfl
  · rw [d, h.tick, State.pins, h.inp, Nat.add_zero, hr]; simp; omega
  · intro m; rw [c, h.inp]; congr 1; omega

/-- The registers of `t'` are those of `t`, but for `elapsed = e`. -/
def registersAt (t t' : State) (e : Nat) : Prop :=
  t'.state = t.state ∧ t'.elapsed = e ∧ t'.bitIdx = t.bitIdx ∧ t'.data = t.data ∧ t'.ones = t.ones ∧ t'.startErr = t.startErr ∧ t'.parityErr = t.parityErr ∧ t'.stopErr = t.stopErr

/-- The wait loop: a timed state with `elapsed = 0` and threshold `T` spends its first `T − 1` steps counting, and writes nothing
else (40_bit_timing.md R126 to R129). -/
theorem wait_loop {s0 : State} {b : Nat} {t : State} {T : Nat} (hw : s0.cfg.WellFormed) (h : Prog s0 b t)
    (hT : T ≤ s0.cfg.ticksPerBit) (h0 : t.elapsed = 0) (hthr : t.threshold = some T)
    (hr : ∀ n, b ≤ n → n < b + T - 1 → (s0.inputAt n).rst = false) :
    ∀ e, e < T → ∃ t', Prog s0 (b + e) t' ∧ registersAt t t' e := by
  intro e
  induction e with
  | zero => intro _; exact ⟨t, h, rfl, h0, rfl, rfl, rfl, rfl, rfl, rfl⟩
  | succ e ih =>
    intro he
    obtain ⟨t', hp, hs⟩ := ih (by omega)
    have hrr := hr (b + e) (by omega) (by omega)
    have hpr : t'.pins.rst = false := by rw [State.pins, hp.inp]; exact hrr
    have hthr' : t'.threshold = some T := by
      rw [← hthr]; simp only [State.threshold, hs.1, hp.cfg, h.cfg]
    have hdue : t'.due = false := by simp [State.due, hthr', hs.2.1]; omega
    have hex : exec t'.fetch t' = .next t'.countTick := by
      rw [fetch_eq, hpr, hdue]
      unfold State.threshold at hthr'
      split at hthr' <;> rename_i hq <;> simp [hq] at hthr' ⊢ <;> rfl
    refine ⟨_, hp.step hw hrr hex, ?_⟩
    obtain ⟨a1, a2, a3, a4, a5, a6, a7, a8⟩ := hs
    refine ⟨a1, ?_, a3, a4, a5, a6, a7, a8⟩
    have : t'.elapsed + 1 < 2 ^ t'.cfg.elapsedWidth := by
      have hq := ticksPerBit_le_elapsed s0.cfg
      rw [hp.cfg]
      omega
    simp only [State.clockTick_elapsed, State.countTick_elapsed]
    rw [cutTo_of_lt this, a2]

end Sys2Proof.Machine
end

