-- ==== Sys2Proof/Laws/Frame.lean ====
section
/-! SUPPORT. One slot of a frame: the state at its first step, its wait loop and its sample; and the line levels of a sent
frame. -/

namespace Sys2Proof.Machine

/-- The tick, counted from detection, of the first step in slot `k`. -/
def slotEntry (c : Config) (k : Nat) : Nat := if k = 0 then 1 else c.sampleTick (k - 1) + 1
/-- The threshold that times slot `k` (40_bit_timing.md R125). -/
def slotThreshold (c : Config) (k : Nat) : Nat := if k = 0 then c.ticksPerHalfBit else c.ticksPerBit

/-- A slot's last step is its sample (40_bit_timing.md R130). -/
theorem slotEntry_threshold (c : Config) (k : Nat) (h : c.WellFormed) : slotEntry c k + slotThreshold c k - 1 = c.sampleTick k := by
  have := (wellFormed_iff _).1 h
  unfold slotEntry slotThreshold Config.sampleTick
  split
  · subst k; simp
  · obtain ⟨k, rfl⟩ := Nat.exists_eq_succ_of_ne_zero ‹k ≠ 0›
    simp; ring_nf


/-- The FSM state in slot `k` of a frame; COMPLETE past the last (30_encoding.md R90). -/
def slotState (c : Config) (k : Nat) : FsmState :=
  if k = 0 then .start else if k ≤ c.dataBits then .data else if k < 1 + c.dataBits + c.paritySlots then .parity
  else if k < c.totalBits then .stop else .complete

/-- `bitIdx` in slot `k` of a frame (10_state.md R35). -/
def slotIndex (c : Config) (k : Nat) : Nat :=
  if k = 0 then 0 else if k ≤ c.dataBits then k - 1 else if k < 1 + c.dataBits + c.paritySlots then 0
  else if k < c.totalBits then k - (1 + c.dataBits + c.paritySlots) else 0

/-- The parity flag of a frame with data `d` (42_parity_checker.md R170, R174). -/
def parityOutcome (c : Config) (L : Nat → Bool) (d : DataWord) : Bool :=
  match c.parityMode with
        | .none => false
        | .even => L (c.dataBits + 1) != (popcount d % 2 == 1)
        | .odd => L (c.dataBits + 1) == (popcount d % 2 == 1)

/-- `t` is the first state of slot `k` of a frame detected in `s0`: what the slots before it have left. -/
structure SlotEntry (s0 : State) (k : Nat) (t : State) : Prop where
  prog : Prog s0 (slotEntry s0.cfg k) t
  elapsed : t.elapsed = 0
  state : t.state = slotState s0.cfg k
  idx : t.bitIdx = slotIndex s0.cfg k
  data : t.data.toNat = slotSum s0.slotLevel (min (k - 1) s0.cfg.dataBits)
  lt : t.data.toNat < 2 ^ (min (k - 1) s0.cfg.dataBits)
  ones : t.ones.toNat = popcount t.data
  start : 1 ≤ k → t.startErr = s0.slotLevel 0
  par : t.parityErr = if s0.cfg.dataBits + 2 ≤ k then parityOutcome s0.cfg s0.slotLevel t.data else false
  stop : t.stopErr = (List.range s0.cfg.stopBits).map (fun j => if s0.cfg.dataBits + 1 + s0.cfg.paritySlots + j < k then !s0.slotLevel (s0.cfg.dataBits + 1 + s0.cfg.paritySlots + j) else false)

/-- The threshold of the state that times slot `k`. -/
theorem threshold_slotState {c : Config} {k : Nat} {t : State} (hs : t.state = slotState c k) (hc : t.cfg = c) (hk : k < c.totalBits) :
    t.threshold = some (slotThreshold c k) := by
  subst hc
  unfold slotState at hs
  unfold slotThreshold State.threshold
  by_cases c0 : k = 0
  · rw [if_pos c0] at hs; simp [hs, c0]
  rw [if_neg c0] at hs ⊢
  split_ifs at hs <;> simp [hs]

/-- Inside slot `k` only `elapsed` changes. -/
theorem wait_slot {s0 : State} {k : Nat} {t : State} (hw : s0.cfg.WellFormed) (h : SlotEntry s0 k t) (hk : k < s0.cfg.totalBits)
    (hr : ∀ n, n < s0.cfg.completeTick → (s0.inputAt n).rst = false) :
    ∀ e, e < slotThreshold s0.cfg k → ∃ t', Prog s0 (slotEntry s0.cfg k + e) t' ∧ registersAt t t' e := by
  have hwf := (wellFormed_iff _).1 hw
  have hb := slotEntry_threshold s0.cfg k hw
  have hle : s0.cfg.sampleTick k < s0.cfg.completeTick := by
    unfold Config.completeTick Config.sampleTick
    have := Nat.mul_le_mul_right s0.cfg.ticksPerBit (show k ≤ s0.cfg.totalBits - 1 by omega)
    omega
  apply wait_loop hw h.prog
  · unfold slotThreshold; split
    · exact ticksPerHalfBit_le _
    · exact le_rfl
  · exact h.elapsed
  · exact threshold_slotState h.state h.prog.cfg hk
  · intro n _ h2; exact hr n (by omega)

/-- One slot: its waits and its sample leave what the next slot starts from. -/
theorem sample_slot {s0 : State} {k : Nat} {t : State} (hw : s0.cfg.WellFormed) (h : SlotEntry s0 k t) (hk : k < s0.cfg.totalBits)
    (hr : ∀ n, n < s0.cfg.completeTick → (s0.inputAt n).rst = false) : ∃ u, SlotEntry s0 (k + 1) u := by
  have hwf := (wellFormed_iff _).1 hw
  have hb := slotEntry_threshold s0.cfg k hw
  have hHP := ticksPerHalfBit_le s0.cfg
  have hT : 1 ≤ slotThreshold s0.cfg k := by unfold slotThreshold; split <;> omega
  have hle : s0.cfg.sampleTick k < s0.cfg.completeTick := by
    unfold Config.completeTick Config.sampleTick
    have := Nat.mul_le_mul_right s0.cfg.ticksPerBit (show k ≤ s0.cfg.totalBits - 1 by omega)
    omega
  obtain ⟨t', hp, h1, h2, h3, h4, h5, h6, h7, h8⟩ := wait_slot hw h hk hr (slotThreshold s0.cfg k - 1) (by omega)
  rw [show slotEntry s0.cfg k + (slotThreshold s0.cfg k - 1) = s0.cfg.sampleTick k by omega] at hp
  have hrr := hr _ hle
  have hpins : t'.pins = s0.inputAt (s0.cfg.sampleTick k) := hp.inp 0
  have hread : t'.lineRead = s0.slotLevel k := by rw [State.lineRead, hpins]; rfl
  have hbt : slotEntry s0.cfg (k + 1) = s0.cfg.sampleTick k + 1 := by unfold slotEntry; simp
  have hDB := dataBits_le_bitIdx s0.cfg
  have hSB := stopBits_le_bitIdx s0.cfg
  have htot : s0.cfg.totalBits = 1 + s0.cfg.dataBits + s0.cfg.paritySlots + s0.cfg.stopBits := rfl
  have hdue : t'.due = true := by
    have hth := threshold_slotState (h1.trans h.state) hp.cfg hk
    unfold State.due
    rw [hth, h2]
    simp; omega
  have hpe : s0.cfg.paritySlots = 0 ∨ s0.cfg.paritySlots = 1 := by unfold Config.paritySlots; split <;> simp
  have stopEq : ∀ _ : Nat, ¬ (s0.cfg.dataBits + 1 + s0.cfg.paritySlots ≤ k) →
     t.stopErr = (List.range s0.cfg.stopBits).map (fun j => if s0.cfg.dataBits + 1 + s0.cfg.paritySlots + j < k + 1 then !s0.slotLevel (s0.cfg.dataBits + 1 + s0.cfg.paritySlots + j) else false) := by
    intro _ hlt
    rw [h.stop]
    apply List.map_congr_left
    intro j _
    have e1 : ¬ (s0.cfg.dataBits + 1 + s0.cfg.paritySlots + j < k) := by omega
    have e2 : ¬ (s0.cfg.dataBits + 1 + s0.cfg.paritySlots + j < k + 1) := by omega
    rw [if_neg e1, if_neg e2]
  by_cases c0 : k = 0
  · have hst : t'.state = .start := by rw [h1, h.state]; simp [slotState, c0]
    have hex : exec t'.fetch t' = .next ((((t'.setStartErr (startErrOf t'.lineRead)).restart).setBitIdx 0).goTo .data) := by
      rw [fetch_eq, hpins, hrr, hdue, hst]; rfl
    have hprog := hp.step hw hrr hex
    rw [← hbt] at hprog
    refine ⟨_, hprog, rfl, ?_, ?_, ?_, ?_, ?_, ?_, ?_, ?_⟩
    · simp [slotState, c0]; omega
    · simp only [State.clockTick_bitIdx, State.goTo_bitIdx, State.setBitIdx_bitIdx, cutTo_zero, slotIndex]
      split_ifs <;> omega
    · have := h.data; simp [c0, h4] at this ⊢; exact this
    · have := h.lt; simp [c0, h4] at this ⊢; exact this
    · have := h.ones; simp [h5, h4]; exact this
    · intro _; simp [hread, startErrOf, c0]
    · have := h.par
      simp [c0, h7] at this ⊢; rw [this]
    · simp only [State.goTo_stopErr, State.setBitIdx_stopErr, State.restart_stopErr, State.setStartErr_stopErr, State.clockTick_stopErr, h8]
      exact stopEq 0 (by omega)
  by_cases c1 : k ≤ s0.cfg.dataBits
  · have hst : t'.state = .data := by rw [h1, h.state]; simp [slotState, c0, c1]
    have hidx : t'.bitIdx = k - 1 := by rw [h3, h.idx]; simp [slotIndex, c0, c1]
    have hmin : min (k - 1) s0.cfg.dataBits = k - 1 := by omega
    have hlt : t'.data.toNat < 2 ^ (k - 1) := by have := h.lt; rw [hmin] at this; rw [h4]; exact this
    have hdat : t'.data.toNat = slotSum s0.slotLevel (k - 1) := by have := h.data; rw [hmin] at this; rw [h4]; exact this
    have hmin' : min (k + 1 - 1) s0.cfg.dataBits = (k - 1) + 1 := by omega
    have hones : (t'.ones + (if t'.lineRead then 1#6 else 0#6)).toNat = popcount (setBit t'.data t'.bitIdx t'.lineRead) := by
      rw [hidx, popcount_setBit _ (by omega) hlt]
      have hO := h.ones
      have := popcount_le hlt (by omega)
      rw [h5]
      rw [← h4] at hO
      cases t'.lineRead <;> simp [BitVec.toNat_add] <;> omega
    have hdat' : (setBit t'.data t'.bitIdx t'.lineRead).toNat = slotSum s0.slotLevel (k - 1 + 1) := by
      rw [hidx, setBit_toNat _ (by omega) hlt, slotSum, hdat, hread]
      rw [show 1 + (k - 1) = k by omega]
    have hlt' : (setBit t'.data t'.bitIdx t'.lineRead).toNat < 2 ^ (k - 1 + 1) := by
      rw [hidx]; exact setBit_lt _ hlt
    have hex : exec t'.fetch t' = execDataSample t' := by
      rw [fetch_eq, hpins, hrr, hdue, hst]; rfl
    simp only [execDataSample] at hex
    have hpar := h.par
    rw [if_neg (by omega)] at hpar
    by_cases hlast : t'.bitIdx = t'.cfg.dataBits - 1
    · rw [if_pos hlast] at hex
      have hprog := hp.step hw hrr hex
      rw [← hbt] at hprog
      refine ⟨_, hprog, rfl, ?_, ?_, ?_, ?_, ?_, ?_, ?_, ?_⟩
      · rw [hp.cfg] at hlast
        simp only [State.clockTick_state, State.goTo_state, slotState]
        rw [if_neg (by omega), if_neg (by omega), htot, hp.cfg]
        unfold Config.paritySlots
        cases s0.cfg.parityMode <;> simp only [afterData] <;> split_ifs <;> first | rfl | omega
      · simp only [State.clockTick_bitIdx, State.goTo_bitIdx, State.setBitIdx_bitIdx, cutTo_zero, slotIndex]
        rw [hp.cfg] at hlast
        have : k = s0.cfg.dataBits := by omega
        subst this
        split_ifs <;> omega
      · rw [hmin']; exact hdat'
      · rw [hmin']; exact hlt'
      · exact hones
      · intro _; simp [h6]; exact h.start (by omega)
      · rw [if_neg (by omega)]; simp [h7, hpar]
      · show t'.stopErr = _
        rw [h8]; exact stopEq 0 (by omega)
    · rw [if_neg hlast] at hex
      have hprog := hp.step hw hrr hex
      rw [← hbt] at hprog
      refine ⟨_, hprog, rfl, ?_, ?_, ?_, ?_, ?_, ?_, ?_, ?_⟩
      · rw [hp.cfg] at hlast
        show t'.state = _
        rw [hst]; simp only [slotState]
        rw [if_neg (by omega), if_pos (by omega)]
      · rw [hp.cfg] at hlast
        simp only [State.clockTick_bitIdx, State.setBitIdx_bitIdx, slotIndex]
        have : cutTo t'.cfg.bitIdxWidth (t'.bitIdx + 1) = t'.bitIdx + 1 := cutTo_of_lt (by rw [hp.cfg]; omega)
        simp only [State.restart_cfg, State.countOne_cfg, State.writeDataBit_cfg, this]
        rw [if_neg (by omega), if_pos (by omega)]; omega
      · rw [hmin']; exact hdat'
      · rw [hmin']; exact hlt'
      · exact hones
      · intro _; simp [h6]; exact h.start (by omega)
      · rw [if_neg (by omega)]; simp [h7, hpar]
      · show t'.stopErr = _
        rw [h8]; exact stopEq 0 (by omega)
  have hminD : min (k - 1) s0.cfg.dataBits = s0.cfg.dataBits := by omega
  have hminD' : min (k + 1 - 1) s0.cfg.dataBits = s0.cfg.dataBits := by omega
  have hdata := h.data
  have hlt := h.lt
  rw [hminD] at hdata hlt
  by_cases c2 : k < 1 + s0.cfg.dataBits + s0.cfg.paritySlots
  · have hst : t'.state = .parity := by rw [h1, h.state]; simp [slotState, c0, c1, c2]
    have hex : exec t'.fetch t' = execParitySample t' := by
      rw [fetch_eq, hpins, hrr, hdue, hst]; rfl
    simp only [execParitySample] at hex
    have hk : k = s0.cfg.dataBits + 1 := by omega
    have hpe1 : s0.cfg.paritySlots = 1 := by omega
    have hprog := hp.step hw hrr hex
    rw [← hbt] at hprog
    refine ⟨_, hprog, rfl, ?_, ?_, ?_, ?_, ?_, ?_, ?_, ?_⟩
    · simp only [State.clockTick_state, State.goTo_state, slotState, htot]
      rw [if_neg (by omega), if_neg (by omega), if_neg (by omega), if_pos (by omega)]
    · simp only [State.clockTick_bitIdx, State.goTo_bitIdx, State.setBitIdx_bitIdx, cutTo_zero, slotIndex]
      split_ifs <;> omega
    · rw [hminD']; show t'.data.toNat = _; rw [h4]; exact hdata
    · rw [hminD']; show t'.data.toNat < _; rw [h4]; exact hlt
    · show t'.ones.toNat = popcount t'.data; rw [h5, h4]; exact h.ones
    · intro _; show t'.startErr = _; rw [h6]; exact h.start (by omega)
    · rw [if_pos (by omega)]
      have hO : t'.ones.toNat = popcount t'.data := by rw [h5, h4]; exact h.ones
      show parityErrOf t'.lineRead (expectedParity t'.cfg.parityMode t'.ones t'.draws) = parityOutcome s0.cfg s0.slotLevel t'.data
      rw [hp.cfg, hread, hk]
      unfold Config.paritySlots at hpe1
      unfold parityOutcome expectedParity parityErrOf
      rw [hO]
      cases hpm : s0.cfg.parityMode
      · rw [hpm] at hpe1; simp at hpe1
      · rfl
      · simp only []
        cases s0.slotLevel (s0.cfg.dataBits + 1) <;> cases (popcount t'.data % 2 == 1) <;> rfl
    · show t'.stopErr = _
      rw [h8]; exact stopEq 0 (by omega)
  · have hst : t'.state = .stop := by rw [h1, h.state]; simp [slotState, c0, c1, c2, hk]
    have hidx : t'.bitIdx = k - (1 + s0.cfg.dataBits + s0.cfg.paritySlots) := by rw [h3, h.idx]; simp [slotIndex, c0, c1, c2, hk]
    have hex : exec t'.fetch t' = execStopSample t' := by
      rw [fetch_eq, hpins, hrr, hdue, hst]; rfl
    simp only [execStopSample] at hex
    have hstop : t'.stopErr.set t'.bitIdx (stopErrOf t'.lineRead) = (List.range s0.cfg.stopBits).map (fun j => if s0.cfg.dataBits + 1 + s0.cfg.paritySlots + j < k + 1 then !s0.slotLevel (s0.cfg.dataBits + 1 + s0.cfg.paritySlots + j) else false) := by
      rw [h8, h.stop, hidx, hread]
      apply List.ext_getElem?
      intro j
      rw [List.getElem?_set, List.getElem?_map, List.getElem?_map]
      by_cases hj : j < s0.cfg.stopBits
      · rw [List.getElem?_range hj]
        simp only [Option.map_some, List.length_map, List.length_range, stopErrOf]
        split
        · rename_i hjk
          rw [if_pos (by omega), if_pos (by omega)]
          congr 3; omega
        · congr 1
          by_cases hh : s0.cfg.dataBits + 1 + s0.cfg.paritySlots + j < k
          · rw [if_pos hh, if_pos (by omega)]
          · rw [if_neg hh, if_neg (by omega)]
      · rw [List.getElem?_eq_none (by simp; omega)]
        simp only [Option.map_none, List.length_map, List.length_range]
        split
        · rw [if_neg (by omega)]
        · rfl
    have hparr : (if s0.cfg.dataBits + 2 ≤ k + 1 then parityOutcome s0.cfg s0.slotLevel t'.data else false) = t'.parityErr := by
      rw [if_pos (by omega), h7, h.par]
      rcases hpe with hpe | hpe
      · have : ∀ d, parityOutcome s0.cfg s0.slotLevel d = false := by
          intro d; unfold parityOutcome; unfold Config.paritySlots at hpe
          cases hpm : s0.cfg.parityMode <;> rw [hpm] at hpe <;> simp at hpe ⊢
        simp [this]
      · rw [if_pos (by omega), h4]
    by_cases hlast : t'.bitIdx = t'.cfg.stopBits - 1
    · rw [if_pos hlast] at hex
      rw [hp.cfg] at hlast
      have hprog := hp.step hw hrr hex
      rw [← hbt] at hprog
      refine ⟨_, hprog, rfl, ?_, ?_, ?_, ?_, ?_, ?_, ?_, ?_⟩
      · simp only [State.clockTick_state, State.goTo_state, slotState, htot]
        rw [if_neg (by omega), if_neg (by omega), if_neg (by omega), if_neg (by omega)]
      · simp only [State.clockTick_bitIdx, State.goTo_bitIdx, State.setBitIdx_bitIdx, cutTo_zero, slotIndex, htot]
        split_ifs <;> omega
      · rw [hminD']; show t'.data.toNat = _; rw [h4]; exact hdata
      · rw [hminD']; show t'.data.toNat < _; rw [h4]; exact hlt
      · show t'.ones.toNat = popcount t'.data; rw [h5, h4]; exact h.ones
      · intro _; show t'.startErr = _; rw [h6]; exact h.start (by omega)
      · exact hparr.symm
      · exact hstop
    · rw [if_neg hlast] at hex
      rw [hp.cfg] at hlast
      have hprog := hp.step hw hrr hex
      rw [← hbt] at hprog
      refine ⟨_, hprog, rfl, ?_, ?_, ?_, ?_, ?_, ?_, ?_, ?_⟩
      · show t'.state = _
        simp only [hst, slotState, htot]
        rw [if_neg (by omega), if_neg (by omega), if_neg (by omega), if_pos (by omega)]
      · have : cutTo t'.cfg.bitIdxWidth (t'.bitIdx + 1) = t'.bitIdx + 1 := cutTo_of_lt (by rw [hp.cfg]; omega)
        show cutTo t'.cfg.bitIdxWidth (t'.bitIdx + 1) = _
        rw [this]
        simp only [slotIndex, htot]
        rw [if_neg (by omega), if_neg (by omega), if_neg (by omega), if_pos (by omega)]; omega
      · rw [hminD']; show t'.data.toNat = _; rw [h4]; exact hdata
      · rw [hminD']; show t'.data.toNat < _; rw [h4]; exact hlt
      · show t'.ones.toNat = popcount t'.data; rw [h5, h4]; exact h.ones
      · intro _; show t'.startErr = _; rw [h6]; exact h.start (by omega)
      · exact hparr.symm
      · exact hstop

/-- Each level is held for `P` ticks. -/
theorem getElem?_holdSlots (c : Config) (hP : 0 < c.ticksPerBit) (ls : List Bool) (n : Nat) :
    (holdSlots c ls)[n]? = ls[n / c.ticksPerBit]? := by
  induction ls generalizing n with
  | nil => simp [holdSlots]
  | cons l ls ih =>
    have : holdSlots c (l :: ls) = List.replicate c.ticksPerBit l ++ holdSlots c ls := by simp [holdSlots]
    rw [this]
    by_cases h : n < c.ticksPerBit
    · rw [List.getElem?_append_left (by simpa using h), Nat.div_eq_of_lt h, List.getElem?_replicate, if_pos h]; rfl
    · rw [List.getElem?_append_right (by simpa using h), List.length_replicate, ih]
      have : n / c.ticksPerBit = (n - c.ticksPerBit) / c.ticksPerBit + 1 := by
        rw [← Nat.add_div_right _ hP]; congr 1; omega
      rw [this]; rfl

theorem length_holdSlots (c : Config) (ls : List Bool) : (holdSlots c ls).length = ls.length * c.ticksPerBit := by
  induction ls with
  | nil => simp [holdSlots]
  | cons l ls ih =>
    have : holdSlots c (l :: ls) = List.replicate c.ticksPerBit l ++ holdSlots c ls := by simp [holdSlots]
    rw [this, List.length_append, ih, List.length_replicate, List.length_cons, Nat.add_mul]; omega

/-- A frame has `N` slots (00_scope.md R7). -/
theorem length_frameSlots (c : Config) (v) : (frameSlots c v none none none).length = c.totalBits := by
  simp [frameSlots, Config.totalBits]; omega

/-- The level that `frame v` holds in slot `k` (30_encoding.md R103). -/
def sentLevel (c : Config) (v : DataWord) (k : Nat) : Bool :=
  if k = 0 then false else if k ≤ c.dataBits then v.getLsbD (k - 1) else if k < 1 + c.dataBits + c.paritySlots then sentParity c v else true

/-- The slots of `frame v`. -/
theorem frameSlots_get (c : Config) (v) (k : Nat) (hk : k < c.totalBits) : (frameSlots c v none none none)[k]? = some (sentLevel c v k) := by
  unfold Config.totalBits at hk
  unfold frameSlots sentLevel
  cases k with
  | zero => simp
  | succ k =>
    rw [List.cons_append, List.getElem?_cons_succ]
    by_cases h : k < c.dataBits
    · rw [List.getElem?_append_left (by simpa using h), List.getElem?_map, List.getElem?_range h]
      rw [if_neg (by omega), if_pos (by omega)]; rfl
    · rw [List.getElem?_append_right (by simpa using h)]
      simp only [List.length_map, List.length_range]
      rw [if_neg (by omega), if_neg (by omega)]
      by_cases h2 : k - c.dataBits < c.paritySlots
      · rw [List.getElem?_append_left (by simpa using h2), List.getElem?_replicate, if_pos h2, if_pos (by omega)]; rfl
      · rw [List.getElem?_append_right (by simpa using h2), if_neg (by omega)]
        simp only [List.length_replicate, Option.getD_none]
        rw [List.getElem?_replicate, if_pos (by omega)]

end Sys2Proof.Machine
end

