-- ==== Sys2Proof/Laws/PerInstr.lean ====
section
/-! SUPPORT. One lemma per operation about its row of 30_encoding.md R96 as syntax: its canonical word has bit values that
its own row fixes, and lies in no other row. -/

namespace Sys2Proof.Laws.EncodeInRow

/-- The canonical word of `i` matches the row of `i` and no other row. -/
def Statement (i : Instr) : Prop := ∀ j : Instr, rowMatches j (encode i) = true ↔ j = i

theorem reset : Statement .reset := by intro j; cases j <;> decide

theorem idleHold : Statement .idleHold := by intro j; cases j <;> decide

theorem idleDetect : Statement .idleDetect := by intro j; cases j <;> decide

theorem startWait : Statement .startWait := by intro j; cases j <;> decide

theorem startSample : Statement .startSample := by intro j; cases j <;> decide

theorem dataWait : Statement .dataWait := by intro j; cases j <;> decide

theorem dataSample : Statement .dataSample := by intro j; cases j <;> decide

theorem parityWait : Statement .parityWait := by intro j; cases j <;> decide

theorem paritySample : Statement .paritySample := by intro j; cases j <;> decide

theorem stopWait : Statement .stopWait := by intro j; cases j <;> decide

theorem stopSample : Statement .stopSample := by intro j; cases j <;> decide

theorem completeHold : Statement .completeHold := by intro j; cases j <;> decide

theorem completeRelease : Statement .completeRelease := by intro j; cases j <;> decide

theorem reservedState : Statement .reservedState := by intro j; cases j <;> decide

end Sys2Proof.Laws.EncodeInRow
end

