-- ==== Sys2Proof/Laws/Stimulus.lean ====
section
/-! SUPPORT. What the closed loop's counter of COMPLETE steps and its consumers do, and one tick of the loop. -/

namespace Sys2Proof.Machine

@[simp] theorem State.completeStep_complete {s : State} (before : Nat) (h : s.state = .complete) :
    s.completeStep before = before + 1 := if_pos h

@[simp] theorem State.completeStep_other {s : State} (before : Nat) (h : s.state ≠ .complete) : s.completeStep before = 0 :=
  if_neg h

@[simp] theorem Consumer.ack_auto (nth : Nat) : Consumer.auto.ack nth = true := rfl

@[simp] theorem Consumer.ack_never (nth : Nat) : Consumer.never.ack nth = false := rfl

@[simp] theorem Consumer.ack_delay (a nth : Nat) : (Consumer.delay a).ack nth = decide (nth = a + 1) := rfl

/-- A delayed consumer never acknowledges on a step outside COMPLETE, whatever its delay. -/
theorem Consumer.ack_delay_other {s : State} (a before : Nat) (h : s.state ≠ .complete) :
    (Consumer.delay a).ack (s.completeStep before) = false := by simp [h]

end Sys2Proof.Machine
end

