-- ==== Sys2Proof/Tests/Slice0.lean ====
section
/-! SUPPORT. Tests: the WellFormed checks, decoding, one step of each operation against the vectors of 95_test_vectors.md, and
a witness for the hypotheses of each statement. Expected values come from the spec's vectors and rules. -/

open Sys2Proof Sys2Proof.Machine

namespace Sys2Proof.Tests

/-! ### WellFormed: each check refuses an ill-formed term -/

theorem test_wf_initial : Config.initial.wellFormed = true := by decide

theorem test_wf_refuses_zero_tick_rate : ({ Config.initial with tickHz := 0 } : Config).wellFormed = false := by decide

theorem test_wf_refuses_zero_baud : ({ Config.initial with baud := 0 } : Config).wellFormed = false := by decide

/-- V20b. -/
theorem test_wf_refuses_no_data_bits : ({ Config.initial with dataBits := 0 } : Config).wellFormed = false := by decide

/-- V20c. -/
theorem test_wf_refuses_33_data_bits : ({ Config.initial with dataBits := 33 } : Config).wellFormed = false := by decide

/-- V20d. -/
theorem test_wf_refuses_no_stop_bits : ({ Config.initial with stopBits := 0 } : Config).wellFormed = false := by decide

/-- V17 (`H = 0`) and V19 (`P = 0`). -/
theorem test_wf_refuses_short_bit : ({ Config.initial with tickHz := 3, baud := 2 } : Config).wellFormed = false ∧
    ({ Config.initial with tickHz := 9, baud := 10 } : Config).wellFormed = false := by decide

/-- V16, the smallest timing. -/
theorem test_wf_admits_smallest_timing : ({ Config.initial with tickHz := 2, baud := 1 } : Config).wellFormed = true := by
  decide

/-- V20a: `PARITY_MODE = 11` is refused where it is built. -/
theorem test_build_refuses_reserved_parity :
    configOf { tickHz := 1000000, baud := 10000, dataBits := 8, parityMode := 0b11#2, stopBits := 1 } = none := by decide

theorem test_instr_wf_refuses_parity_rows : Instr.wellFormed { Config.initial with parityMode := .none } .paritySample = false ∧
    Instr.wellFormed { Config.initial with parityMode := .none } .parityWait = false := by decide

theorem test_instr_wf_refuses_start_wait : Instr.wellFormed { Config.initial with tickHz := 2, baud := 1 } .startWait = false := by
  decide

theorem test_instr_wf_refuses_reserved : Instr.wellFormed Config.initial .reservedState = false := by decide

/-- V12, V13, V14, V15. -/
theorem test_timing : [(1000000, 10000), (1000, 3), (7, 2), (5, 1)].map
    (fun x => (({ Config.initial with tickHz := x.1, baud := x.2 } : Config).ticksPerBit,
      ({ Config.initial with tickHz := x.1, baud := x.2 } : Config).ticksPerHalfBit)) =
    [(100, 50), (333, 166), (3, 1), (5, 2)] := by decide

/-! ### Decoding: words written out from 30_encoding.md R96 as `rst state due rx ack` -/

theorem test_decode_reset : decodeSelector 0b1_010_1_0_1#7 = .reset := by decide
theorem test_decode_idle_hold : decodeSelector 0b0_000_1_1_0#7 = .idleHold := by decide
theorem test_decode_idle_detect : decodeSelector 0b0_000_0_0_1#7 = .idleDetect := by decide
theorem test_decode_start_wait : decodeSelector 0b0_001_0_1_1#7 = .startWait := by decide
theorem test_decode_start_sample : decodeSelector 0b0_001_1_0_0#7 = .startSample := by decide
theorem test_decode_data_wait : decodeSelector 0b0_010_0_1_0#7 = .dataWait := by decide
theorem test_decode_data_sample : decodeSelector 0b0_010_1_1_0#7 = .dataSample := by decide
theorem test_decode_parity_wait : decodeSelector 0b0_011_0_0_1#7 = .parityWait := by decide
theorem test_decode_parity_sample : decodeSelector 0b0_011_1_0_1#7 = .paritySample := by decide
theorem test_decode_stop_wait : decodeSelector 0b0_100_0_1_1#7 = .stopWait := by decide
theorem test_decode_stop_sample : decodeSelector 0b0_100_1_1_0#7 = .stopSample := by decide
theorem test_decode_complete_hold : decodeSelector 0b0_101_1_1_0#7 = .completeHold := by decide
theorem test_decode_complete_release : decodeSelector 0b0_101_0_0_1#7 = .completeRelease := by decide
theorem test_decode_reserved : decodeSelector 0b0_110_1_0_1#7 = .reservedState ∧
    decodeSelector 0b0_111_0_1_1#7 = .reservedState := by decide
theorem test_decode_refuses_bytes : decodeBytes [] = .error .noByte ∧ decodeBytes [0x80#8] = .error .bitSevenSet ∧
    decodeBytes [0x00#8, 0x00#8] = .error .moreThanOneByte := by decide
theorem test_table_word : decodeTableWord 8 0b0010110 = some .dataSample ∧ decodeTableWord 8 0x80 = none := by decide

/-! ### One step of each operation -/

/-- `P = 4`, `H = 2`, `D = 2`, Even, `S = 2`. -/
def small : Config := { tickHz := 4, baud := 1, dataBits := 2, parityMode := .even, stopBits := 2 }

/-- `P = 2`, `H = 1`, `D = 1`, no parity, `S = 1`. -/
def tiny : Config := { tickHz := 2, baud := 1, dataBits := 1, parityMode := .none, stopBits := 1 }

/-- `P = 3`, `H = 1`, `D = 1`, no parity, `S = 1`: the shortest bit with room for a back-to-back stream. -/
def narrow : Config := { tiny with tickHz := 3 }

/-- A state with the given control registers and input levels, the rest as after reset. -/
def standing (c : Config) (q : FsmState) (elapsed bitIdx : Nat) (p : Pins) : State :=
  { State.resetFor c with state := q, elapsed := elapsed, bitIdx := bitIdx, inputs := [p] }

/-- No reset, no acknowledgement, the line at `rx`. -/
def line (rx : Level) : Pins := { rst := false, rx := rx, frameAck := false }

/-- The step answers a next state that has the property. -/
def nextHas (s : State) (f : State → Bool) : Bool :=
  match step s with
  | .next t => f t
  | .fault _ => false
  | .refused _ => false

/-- V45. -/
theorem test_reset : nextHas
    { standing Config.initial .data 10 3 { line true with rst := true } with data := 0x05#32, ones := 2#6 }
    (fun t => decide (t = { State.resetFor Config.initial with draws := 1 })) = true := by decide

/-- V46: the frame presented in COMPLETE is withdrawn. -/
theorem test_reset_in_complete : nextHas
    { standing Config.initial .complete 0 0 { rst := true, rx := true, frameAck := true } with data := 0x41#32 }
    (fun t => decide (t.state = .idle ∧ t.presented = none)) = true := by decide

/-- V21. -/
theorem test_idle_hold : nextHas
    { standing Config.initial .idle 0 0 (line true) with data := 0x41#32, startErr := true }
    (fun t => decide (t.state = .idle ∧ t.data = 0x41#32 ∧ t.startErr = true ∧ t.frameValid = false)) = true := by decide

/-- V22. -/
theorem test_idle_detect : nextHas
    { standing { Config.initial with stopBits := 2 } .idle 0 0 (line false) with
      data := 0x41#32, ones := 2#6, startErr := true, parityErr := true, stopErr := [true, true] }
    (fun t => decide (t.state = .start ∧ t.elapsed = 0 ∧ t.bitIdx = 0 ∧ t.data = 0#32 ∧ t.ones = 0#6 ∧
      t.startErr = false ∧ t.parityErr = false ∧ t.stopErr = [false, false])) = true := by decide

/-- V24. -/
theorem test_start_wait : nextHas (standing Config.initial .start 10 0 (line true))
    (fun t => decide (t.elapsed = 11 ∧ t.state = .start)) = true := by decide

/-- V25 with V31. -/
theorem test_start_sample_high : nextHas (standing Config.initial .start 49 0 (line true))
    (fun t => decide (t.elapsed = 0 ∧ t.state = .data ∧ t.startErr = true ∧ t.bitIdx = 0)) = true := by decide

/-- V29 with V30: `H = 1`, the first START step is due. -/
theorem test_start_sample_low : nextHas (standing tiny .start 0 0 (line false))
    (fun t => decide (t.state = .data ∧ t.startErr = false)) = true := by decide

/-- V26. -/
theorem test_data_wait : nextHas (standing Config.initial .data 98 0 (line true))
    (fun t => decide (t.elapsed = 99 ∧ t.state = .data ∧ t.data = 0#32)) = true := by decide

/-- V33 and V34. -/
theorem test_data_sample : nextHas
    { standing Config.initial .data 99 6 (line true) with data := 0x01#32, ones := 1#6 }
    (fun t => decide (t.data = 0x41#32 ∧ t.ones = 2#6 ∧ t.bitIdx = 7 ∧ t.state = .data)) = true ∧ nextHas
    { standing Config.initial .data 99 7 (line false) with data := 0x41#32, ones := 2#6 }
    (fun t => decide (t.data = 0x41#32 ∧ t.ones = 2#6 ∧ t.bitIdx = 0 ∧ t.state = .parity)) = true := by decide

/-- V36: the 32nd bit, no parity. -/
theorem test_data_sample_bit_31 : nextHas
    { standing { Config.initial with dataBits := 32, parityMode := .none } .data 99 31 (line true) with
      data := 0x00000001#32, ones := 1#6 }
    (fun t => decide (t.data = 0x80000001#32 ∧ t.ones = 2#6 ∧ t.bitIdx = 0 ∧ t.state = .stop)) = true := by decide

/-- V27. -/
theorem test_parity_wait : nextHas (standing { Config.initial with tickHz := 8, baud := 1 } .parity 0 0 (line true))
    (fun t => decide (t.elapsed = 1 ∧ t.state = .parity ∧ t.parityErr = false)) = true := by decide

/-- V38b and V38d: Even. -/
theorem test_parity_sample_even :
    nextHas { standing Config.initial .parity 99 0 (line true) with ones := 2#6 }
      (fun t => decide (t.parityErr = true ∧ t.state = .stop ∧ t.elapsed = 0)) = true ∧
    nextHas { standing Config.initial .parity 99 0 (line false) with ones := 3#6 } (fun t => t.parityErr) = true := by decide

/-- V38e and V38h: Odd. -/
theorem test_parity_sample_odd :
    nextHas { standing { Config.initial with parityMode := .odd } .parity 99 0 (line false) with ones := 2#6 }
      (fun t => t.parityErr) = true ∧
    nextHas { standing { Config.initial with parityMode := .odd } .parity 99 0 (line true) with ones := 3#6 }
      (fun t => t.parityErr) = true := by decide

/-- V28. -/
theorem test_stop_wait : nextHas (standing { Config.initial with tickHz := 8, baud := 1 } .stop 6 0 (line false))
    (fun t => decide (t.elapsed = 7 ∧ t.state = .stop ∧ t.stopErr = [false])) = true := by decide

/-- V52, the first of two stop bits. -/
theorem test_stop_sample_first : nextHas (standing { Config.initial with stopBits := 2 } .stop 99 0 (line false))
    (fun t => decide (t.stopErr = [true, false] ∧ t.bitIdx = 1 ∧ t.state = .stop)) = true := by decide

/-- V51 and V50: the last stop bit. -/
theorem test_stop_sample_last :
    nextHas (standing Config.initial .stop 99 0 (line false))
      (fun t => decide (t.stopErr = [true] ∧ t.bitIdx = 0 ∧ t.state = .complete)) = true ∧
    nextHas (standing Config.initial .stop 99 0 (line true))
      (fun t => decide (t.stopErr = [false] ∧ t.frameValid = true)) = true := by decide

/-- V43. -/
theorem test_complete_hold : nextHas { standing Config.initial .complete 0 0 (line false) with data := 0x41#32 }
    (fun t => decide (t.state = .complete ∧ t.frameValid = true ∧ t.data = 0x41#32)) = true := by decide

/-- V44. -/
theorem test_complete_release : nextHas
    { standing Config.initial .complete 0 0 { line true with frameAck := true } with tick := 1056 }
    (fun t => decide (t.state = .idle ∧ t.frameValid = false ∧ t.tick = 1057)) = true := by decide

/-- 30_encoding.md R97. -/
theorem test_reserved : nextHas { standing Config.initial .reserved7 5 2 (line false) with data := 0x41#32 }
    (fun t => decide (t.state = .idle ∧ t.elapsed = 5 ∧ t.bitIdx = 2 ∧ t.data = 0x41#32)) = true := by decide

/-- 30_encoding.md R103: the slots of `frame 0x03 par=1` in an Even build, and PROG1's run lengths. -/
theorem test_frame_slots : frameSlots small 0x3#32 none (some true) none = [false, true, true, true, true, true] ∧
    runLengths (lineTrace { Config.initial with tickHz := 8, baud := 1, parityMode := .none }
      [.hi 3, .frame 0x41#32 none none none] 100) =
      [(true, 3), (false, 8), (true, 8), (false, 40), (true, 8), (false, 8), (true, 25)] := by decide +kernel

/-- 30_encoding.md R102: `ack=delay 0` is 0 on a step outside COMPLETE, 1 on the first in COMPLETE and 0 on the second;
`ack=delay 1` is 1 on the second. -/
theorem test_consumer_delay :
    [(Consumer.delay 0).ack ((standing small .stop 0 0 (line true)).completeStep 0),
      (Consumer.delay 0).ack ((standing small .complete 0 0 (line true)).completeStep 0),
      (Consumer.delay 0).ack ((standing small .complete 0 0 (line true)).completeStep 1),
      (Consumer.delay 1).ack ((standing small .complete 0 0 (line true)).completeStep 0),
      (Consumer.delay 1).ack ((standing small .complete 0 0 (line true)).completeStep 1)] =
    [false, true, false, false, true] := by decide

/-! ### Witnesses: the hypotheses of each statement are met -/

theorem witness_ResetClearsEveryRegister : ∃ s : State, s.pins.rst = true ∧ s.state = .data :=
  ⟨standing small .data 1 1 { line false with rst := true }, by decide⟩

theorem witness_IdleHoldWritesNothing : ∃ s : State, s.pins.rst = false ∧ s.state = .idle ∧ s.lineRead = true :=
  ⟨standing small .idle 0 0 (line true), by decide⟩

theorem witness_IdleDetectStartsFreshFrame : ∃ s : State, s.pins.rst = false ∧ s.state = .idle ∧ s.lineRead = false :=
  ⟨standing small .idle 0 0 (line false), by decide⟩

theorem witness_WaitStepsCountOneTick :
    (∃ s : State, s.pins.rst = false ∧ s.state = .start ∧ s.elapsed + 1 < s.cfg.ticksPerHalfBit) ∧
    (∃ s : State, s.pins.rst = false ∧ s.state = .data ∧ s.elapsed + 1 < s.cfg.ticksPerBit) ∧
    (∃ s : State, s.pins.rst = false ∧ s.state = .parity ∧ s.elapsed + 1 < s.cfg.ticksPerBit) ∧
    (∃ s : State, s.pins.rst = false ∧ s.state = .stop ∧ s.elapsed + 1 < s.cfg.ticksPerBit) :=
  ⟨⟨standing small .start 0 0 (line true), by decide⟩, ⟨standing small .data 2 0 (line true), by decide⟩,
    ⟨standing small .parity 2 0 (line true), by decide⟩, ⟨standing small .stop 2 1 (line true), by decide⟩⟩

theorem witness_StartSampleRecordsStartBit :
    ∃ s : State, s.pins.rst = false ∧ s.state = .start ∧ s.cfg.ticksPerHalfBit ≤ s.elapsed + 1 :=
  ⟨standing small .start 1 0 (line true), by decide⟩

/-- Both branches: the last data bit and one before it. -/
theorem witness_DataSampleWritesBitAndCounts :
    (∃ s : State, s.cfg.WellFormed ∧ s.pins.rst = false ∧ s.state = .data ∧ s.cfg.ticksPerBit ≤ s.elapsed + 1 ∧
      s.bitIdx < s.cfg.dataBits ∧ s.ones.toNat ≤ 32 ∧ s.bitIdx = s.cfg.dataBits - 1) ∧
    (∃ s : State, s.cfg.WellFormed ∧ s.pins.rst = false ∧ s.state = .data ∧ s.cfg.ticksPerBit ≤ s.elapsed + 1 ∧
      s.bitIdx < s.cfg.dataBits ∧ s.ones.toNat ≤ 32 ∧ s.bitIdx ≠ s.cfg.dataBits - 1) :=
  ⟨⟨standing small .data 3 1 (line true), by decide⟩, ⟨standing small .data 3 0 (line true), by decide⟩⟩

theorem witness_ParitySampleChecksParity :
    (∃ s : State, s.pins.rst = false ∧ s.state = .parity ∧ s.cfg.ticksPerBit ≤ s.elapsed + 1 ∧ s.cfg.parityMode = .even) ∧
    (∃ s : State, s.pins.rst = false ∧ s.state = .parity ∧ s.cfg.ticksPerBit ≤ s.elapsed + 1 ∧ s.cfg.parityMode = .odd) :=
  ⟨⟨standing small .parity 3 0 (line true), by decide⟩,
    ⟨standing { small with parityMode := .odd } .parity 3 0 (line true), by decide⟩⟩

theorem witness_ParitySampleRunsWithoutParityMode :
    ∃ s : State, s.pins.rst = false ∧ s.state = .parity ∧ s.cfg.ticksPerBit ≤ s.elapsed + 1 ∧ s.cfg.parityMode = .none :=
  ⟨standing tiny .parity 1 0 (line true), by decide⟩

/-- Both branches: the last stop bit and one before it. -/
theorem witness_StopSampleRecordsStopBit :
    (∃ s : State, s.cfg.WellFormed ∧ s.pins.rst = false ∧ s.state = .stop ∧ s.cfg.ticksPerBit ≤ s.elapsed + 1 ∧
      s.bitIdx < s.cfg.stopBits ∧ s.stopErr.length = s.cfg.stopBits ∧ s.bitIdx = s.cfg.stopBits - 1) ∧
    (∃ s : State, s.cfg.WellFormed ∧ s.pins.rst = false ∧ s.state = .stop ∧ s.cfg.ticksPerBit ≤ s.elapsed + 1 ∧
      s.bitIdx < s.cfg.stopBits ∧ s.stopErr.length = s.cfg.stopBits ∧ s.bitIdx ≠ s.cfg.stopBits - 1) :=
  ⟨⟨standing small .stop 3 1 (line true), by decide⟩, ⟨standing small .stop 3 0 (line true), by decide⟩⟩

theorem witness_CompleteHoldWritesNothing : ∃ s : State, s.pins.rst = false ∧ s.state = .complete ∧ s.pins.frameAck = false :=
  ⟨standing small .complete 0 0 (line true), by decide⟩

theorem witness_CompleteReleaseReturnsToIdle :
    ∃ s : State, s.pins.rst = false ∧ s.state = .complete ∧ s.pins.frameAck = true :=
  ⟨standing small .complete 0 0 { line true with frameAck := true }, by decide⟩

theorem witness_ReservedCodesReturnToIdle :
    (∃ s : State, s.pins.rst = false ∧ s.state.code = 0b110#3) ∧ (∃ s : State, s.pins.rst = false ∧ s.state.code = 0b111#3) :=
  ⟨⟨standing small .reserved6 0 0 (line true), by decide⟩, ⟨standing small .reserved7 0 0 (line true), by decide⟩⟩

theorem witness_StepRunsSelectedOperation : ∃ (s t : State) (i : Instr), s.cfg.WellFormed ∧
    decodeBytes [s.selector.setWidth 8] = .ok i ∧ exec i s = .next t :=
  ⟨standing small .data 3 1 (line true), _, .dataSample, by decide, by decide, rfl⟩

theorem witness_EveryRunContinues : ∃ s : State, s.cfg.WellFormed := ⟨State.reset, by decide⟩

/-- Each reserved value, and a build with none. -/
theorem witness_IllFormedConfigurationRefused :
    (∃ s : State, ¬ s.cfg.WellFormed) ∧
    (∃ b : BuildConstants, b.parityMode = 0b11#2) ∧ (∃ b : BuildConstants, b.dataBits = 0) ∧
    (∃ b : BuildConstants, b.dataBits = 33) ∧ (∃ b : BuildConstants, b.stopBits = 0) ∧
    (∃ b : BuildConstants, b.baud = 0) ∧ (∃ b : BuildConstants, b.tickHz = 2 * b.baud - 1 ∧ b.tickHz < 2 * b.baud) ∧
    (∃ b : BuildConstants, ¬ (b.parityMode = 0b11#2 ∨ b.dataBits = 0 ∨ 32 < b.dataBits ∨ b.stopBits = 0 ∨ b.baud = 0 ∨
      b.tickHz = 0 ∨ b.tickHz < 2 * b.baud)) :=
  ⟨⟨State.resetFor { small with tickHz := 1 }, by decide⟩, ⟨{ constantsOf small with parityMode := 0b11#2 }, by decide⟩,
    ⟨{ constantsOf small with dataBits := 0 }, by decide⟩, ⟨{ constantsOf small with dataBits := 33 }, by decide⟩,
    ⟨{ constantsOf small with stopBits := 0 }, by decide⟩, ⟨{ constantsOf small with baud := 0 }, by decide⟩,
    ⟨{ constantsOf small with tickHz := 1 }, by decide⟩, ⟨constantsOf tiny, by decide⟩⟩

theorem witness_TimingConstantsAreTruncatedQuotients : ∃ c : Config, 1 ≤ c.baud := ⟨small, by decide⟩

theorem witness_CounterWidthsAreLeast : ∃ c : Config, c.WellFormed ∧ 1 ≤ 2 ∧ c.ticksPerBit ≤ 2 ^ 2 ∧
    max c.dataBits c.stopBits ≤ 2 ^ 2 := ⟨small, by decide⟩

theorem witness_ResetStepLeavesLaunchState : ∃ s : State, s.cfg.WellFormed ∧ s.pins.rst = true :=
  ⟨standing small .stop 1 1 { line false with rst := true }, by decide⟩

/-- Each timed state at the boundary: one tick below the threshold, and due. -/
theorem witness_DueComparesElapsedWithThreshold :
    (∃ s : State, s.pins.rst = false ∧ s.state = .start ∧ s.elapsed < s.cfg.ticksPerHalfBit ∧ s.due = true) ∧
    (∃ s : State, s.pins.rst = false ∧ s.state = .start ∧ s.elapsed < s.cfg.ticksPerHalfBit ∧ s.due = false) ∧
    (∃ s : State, s.pins.rst = false ∧ s.state = .data ∧ s.elapsed < s.cfg.ticksPerBit ∧ s.due = true) ∧
    (∃ s : State, s.pins.rst = false ∧ s.state = .parity ∧ s.elapsed < s.cfg.ticksPerBit ∧ s.due = false) ∧
    (∃ s : State, s.pins.rst = false ∧ s.state = .stop ∧ s.elapsed < s.cfg.ticksPerBit ∧ s.due = true) :=
  ⟨⟨standing small .start 1 0 (line true), by decide⟩, ⟨standing small .start 0 0 (line true), by decide⟩,
    ⟨standing small .data 3 0 (line true), by decide⟩, ⟨standing small .parity 2 0 (line true), by decide⟩,
    ⟨standing small .stop 3 0 (line true), by decide⟩⟩

theorem witness_SelectorRowsPartitionAllSelectors : (∃ s : State, s.state = .idle) ∧ ∃ s : State, s.state = .complete :=
  ⟨⟨State.reset, rfl⟩, standing small .complete 0 0 (line true), rfl⟩

theorem witness_OutputsDriveRegisters : (∃ s : State, s.state = .complete) ∧ ∃ s : State, s.state ≠ .complete :=
  ⟨⟨standing small .complete 0 0 (line true), rfl⟩, State.reset, by decide⟩

theorem witness_DecodeOfEncode : ∃ b : BitVec 8, b.getLsbD 7 = true := ⟨0x80#8, by decide⟩

/-- At the last word, and at a START_WAIT word in a block with `H = 1` and in one with `H = 50`. -/
theorem witness_FetchWordSelectsItsRow : (∃ (s : State) (w : Nat), s.cfg.WellFormed ∧ w = 127 ∧ w < 128) ∧
    (∃ (s : State) (w : Nat), s.cfg.WellFormed ∧ s.cfg.ticksPerHalfBit = 1 ∧ w < 128 ∧
      decodeTableWord 8 w = some .startWait) ∧
    ∃ (s : State) (w : Nat), s.cfg.WellFormed ∧ s.cfg.ticksPerHalfBit = 50 ∧ w < 128 ∧
      decodeTableWord 8 w = some .startWait :=
  ⟨⟨State.reset, 127, by decide⟩, ⟨State.resetFor tiny, 0b0001000, by decide⟩, State.reset, 0b0001000, by decide⟩

theorem witness_BuildConstantsRoundTrip : (∃ c : Config, c.WellFormed) ∧ ∃ b c, configOf b = some c :=
  ⟨⟨small, by decide⟩, constantsOf small, small, by decide⟩

theorem witness_InvariantHoldsAtReset : ∃ c : Config, c.WellFormed := ⟨tiny, by decide⟩

/-- A state in the middle of a frame that meets the invariant, with its step: the second data bit of two. -/
def midFrame : State :=
  { standing small .data 3 1 (line true) with data := 0x1#32, ones := 1#6 }

theorem midFrame_inv : midFrame.Inv where
  built := by decide
  row := by refine (?_ : _ ∧ _ ∧ _ ∧ _ ∧ _); decide
  dataWidth := by decide
  onesCount := by decide
  stopEntries := by decide
  elapsedFits := by decide
  bitIdxFits := by decide

theorem witness_EveryStepKeepsInvariant : ∃ s t : State, s.Inv ∧ step s = .next t := ⟨midFrame, _, midFrame_inv, rfl⟩

/-- The same in a block without a parity bit. -/
def midFrameNoParity : State := { midFrame with cfg := { small with parityMode := .none } }

theorem midFrameNoParity_inv : midFrameNoParity.Inv where
  built := by decide
  row := by refine (?_ : _ ∧ _ ∧ _ ∧ _ ∧ _); decide
  dataWidth := by decide
  onesCount := by decide
  stopEntries := by decide
  elapsedFits := by decide
  bitIdxFits := by decide

theorem witness_ParityFlagStaysClearWithoutParity :
    ∃ s t : State, s.Inv ∧ s.parityQuiet ∧ s.cfg.parityMode = .none ∧ step s = .next t :=
  ⟨midFrameNoParity, _, midFrameNoParity_inv, fun _ => rfl, rfl, rfl⟩

/-- States that select START_WAIT and PARITY_SAMPLE, inside the invariant. -/
theorem witness_SelectedOperationIsAdmissible :
    (∃ s : State, s.Inv ∧ s.fetch = .startWait) ∧ (∃ s : State, s.Inv ∧ s.fetch = .paritySample) :=
  ⟨⟨standing small .start 0 0 (line false), ⟨by decide, by refine (?_ : _ ∧ _ ∧ _ ∧ _ ∧ _ ∧ _ ∧ _); decide,
        by decide, by decide, by decide, by decide, by decide⟩,
      by decide⟩,
    ⟨standing small .parity 3 0 (line false), ⟨by decide, by refine (?_ : _ ∧ _ ∧ _ ∧ _); decide,
        by decide, by decide, by decide, by decide, by decide⟩,
      by decide⟩⟩

theorem witness_StatesFollowFrameOrder :
    (∃ s t : State, step s = .next t ∧ s.pins.rst = false) ∧ (∃ s t : State, step s = .next t ∧ s.pins.rst = true) :=
  ⟨⟨midFrame, _, rfl, by decide⟩, ⟨standing small .stop 1 1 { line false with rst := true }, _, rfl, by decide⟩⟩

theorem witness_LineIgnoredOutsideSampleSteps :
    (∃ (s : State) (p : Pins) (rest : List Pins), s.inputs = p :: rest ∧ p.rst = true) ∧
    (∃ (s : State) (p : Pins) (rest : List Pins), s.inputs = p :: rest ∧ s.state = .complete) ∧
    (∃ (s : State) (p : Pins) (rest : List Pins), s.inputs = p :: rest ∧ s.due = false ∧ s.state = .start) ∧
    (∃ (s : State) (p : Pins) (rest : List Pins), s.inputs = p :: rest ∧ s.due = false ∧ s.state = .data) ∧
    (∃ (s : State) (p : Pins) (rest : List Pins), s.inputs = p :: rest ∧ s.due = false ∧ s.state = .parity) ∧
    (∃ (s : State) (p : Pins) (rest : List Pins), s.inputs = p :: rest ∧ s.due = false ∧ s.state = .stop) :=
  ⟨⟨standing small .idle 0 0 { line true with rst := true }, { line true with rst := true }, [], rfl, rfl⟩,
    ⟨standing small .complete 0 0 (line true), line true, [], rfl, rfl⟩,
    ⟨standing small .start 0 0 (line true), line true, [], rfl, by decide, rfl⟩,
    ⟨standing small .data 2 0 (line true), line true, [], rfl, by decide, rfl⟩,
    ⟨standing small .parity 2 0 (line true), line true, [], rfl, by decide, rfl⟩,
    ⟨standing small .stop 2 0 (line true), line true, [], rfl, by decide, rfl⟩⟩

theorem witness_AcknowledgeIgnoredOutsideComplete :
    ∃ (s : State) (p : Pins) (rest : List Pins), s.inputs = p :: rest ∧ s.state ≠ .complete :=
  ⟨standing small .stop 3 1 (line true), line true, [], rfl, by decide⟩

/-- Two states in the same slot that sample different levels and hold different flags. -/
theorem witness_ErrorsDoNotSteerTheFrame : ∃ s s' t t' : State, s.cfg = s'.cfg ∧ s.state = s'.state ∧
    s.elapsed = s'.elapsed ∧ s.bitIdx = s'.bitIdx ∧ s.pins.rst = s'.pins.rst ∧ s.pins.frameAck = s'.pins.frameAck ∧
    s.state ≠ .idle ∧ step s = .next t ∧ step s' = .next t' :=
  ⟨standing small .data 3 1 (line true), { standing small .data 3 1 (line false) with startErr := true }, _, _, rfl, rfl, rfl,
    rfl, by decide, by decide, by decide, rfl, rfl⟩

/-- A state at detection or in COMPLETE with `n` ticks of the same input levels listed. -/
def listed (c : Config) (q : FsmState) (n : Nat) (p : Pins) : State :=
  { State.resetFor c with state := q, inputs := List.replicate n p }

theorem witness_PresentedFrameIsStable : ∃ (s : State) (n : Nat), s.cfg.WellFormed ∧ s.state = .complete ∧ 0 < n ∧
    (∀ k, k < n → (s.inputAt k).rst = false ∧ (s.inputAt k).frameAck = false) :=
  ⟨listed small .complete 3 (line true), 3, by decide⟩

theorem witness_IdleHasNoTimeout : ∃ (s : State) (n : Nat), s.cfg.WellFormed ∧ s.state = .idle ∧ 0 < n ∧
    (∀ k, k < n → (s.inputAt k).rst = false ∧ (s.inputAt k).rx = true) :=
  ⟨listed small .idle 3 (line true), 3, by decide⟩

theorem witness_HandoverOnlyOnRelease : ∃ s : State, s.state = .complete ∧ s.pins.rst = false ∧ s.pins.frameAck = true :=
  ⟨standing small .complete 0 0 { line true with frameAck := true }, by decide⟩

/-- A detection, and a tick inside its second slot and at its sample. -/
theorem witness_SlotsAreSampledOnSchedule : ∃ s : State, s.cfg.WellFormed ∧ s.state = .idle ∧ s.lineRead = false ∧
    (∀ n, n < s.cfg.completeTick → (s.inputAt n).rst = false) ∧
    1 < s.cfg.totalBits ∧ s.cfg.sampleTick 0 < 2 ∧ 2 ≤ s.cfg.sampleTick 1 ∧ s.cfg.sampleTick 1 = 3 :=
  ⟨listed tiny .idle 8 (line false), by decide⟩

theorem witness_FrameIsDecodedFromItsSamples : ∃ s : State, s.cfg.WellFormed ∧ s.state = .idle ∧ s.lineRead = false ∧
    (∀ n, n < s.cfg.completeTick → (s.inputAt n).rst = false) :=
  ⟨listed tiny .idle 8 (line false), by decide⟩

/-- One hold (`A = 1`). -/
theorem witness_HandoverComesAfterTheHolds : ∃ (s : State) (holds : Nat), s.cfg.WellFormed ∧ s.state = .idle ∧
    s.lineRead = false ∧ holds = 1 ∧ (∀ n, n < s.cfg.completeTick + holds + 1 → (s.inputAt n).rst = false) ∧
    (∀ n, s.cfg.completeTick ≤ n → n < s.cfg.completeTick + holds → (s.inputAt n).frameAck = false) ∧
    (s.inputAt (s.cfg.completeTick + holds)).frameAck = true := by
  refine ⟨{ listed tiny .idle 0 (line false) with
    inputs := List.replicate 7 (line false) ++ [{ line false with frameAck := true }] }, 1, by decide, rfl, by decide, rfl,
    by decide, ?_, by decide⟩
  intro n h₁ h₂
  have h₃ : n = 6 := by
    change 6 ≤ n at h₁
    change n < 7 at h₂
    omega
  subst h₃
  decide

theorem witness_SentFrameIsReceivedClean : ∃ (s : State) (v : DataWord) (rest : List Pins), s.cfg.WellFormed ∧
    s.state = .idle ∧ v.toNat < 2 ^ s.cfg.dataBits ∧
    s.inputs = ((Segment.frame v none none none).levels s.cfg).map autoPins ++ rest :=
  ⟨{ State.resetFor tiny with inputs := ((Segment.frame 1#32 none none none).levels tiny).map autoPins }, 1#32, [],
    by decide, rfl, by decide, by decide⟩

theorem witness_BackToBackStreamIsReceived : ∃ (s : State) (vs : List DataWord) (rest : List Pins), s.cfg.WellFormed ∧
    s.cfg.ticksPerHalfBit + 2 ≤ s.cfg.ticksPerBit ∧ s.state = .idle ∧ vs.length = 2 ∧
    (∀ v ∈ vs, v.toNat < 2 ^ s.cfg.dataBits) ∧
    s.inputs = (vs.flatMap (fun v => (Segment.frame v none none none).levels s.cfg)).map autoPins ++ rest :=
  ⟨{ State.resetFor narrow with
      inputs := ([1#32, 0#32].flatMap (fun v => (Segment.frame v none none none).levels narrow)).map autoPins },
    [1#32, 0#32], [], by decide, by decide, rfl, rfl, by simp [State.resetFor, narrow, tiny], by simp [State.resetFor]⟩

/-- `P = 5`, `H = 2`: one hold is the bound. -/
theorem witness_DelayedConsumerReceivesBackToBackStream : ∃ (c : Config) (holds : Nat) (vs : List DataWord), c.WellFormed ∧
    holds = 1 ∧ holds + c.ticksPerHalfBit + 2 = c.ticksPerBit ∧ (∀ v ∈ vs, v.toNat < 2 ^ c.dataBits) ∧ vs.length = 2 :=
  ⟨{ tiny with tickHz := 5 }, 1, [1#32, 0#32], by decide, rfl, by decide, by simp [tiny], rfl⟩

theorem witness_EveryFrameCanBeReceived : ∃ (c : Config) (f : Frame), c.WellFormed ∧ f.data.toNat < 2 ^ c.dataBits ∧
    f.stopErr.length = c.stopBits ∧ (c.parityMode = .none → f.parityErr = false) ∧ f.startErr = true ∧ f.parityErr = true :=
  ⟨small, { data := 0x3#32, startErr := true, parityErr := true, stopErr := [true, false] }, by decide⟩

theorem witness_LineHeldLowMakesBreakFrames : ∃ (s : State) (m : Nat), s.cfg.WellFormed ∧ s.state = .idle ∧ m = 2 ∧
    (∀ n, n < m * (s.cfg.completeTick + 1) → s.inputAt n = autoPins false) :=
  ⟨listed tiny .idle 14 (autoPins false), 2, by decide⟩

theorem witness_SampleMargin : ∃ (c : Config) (late : ℚ) (k : Nat), c.WellFormed ∧ 0 ≤ late ∧ late < 1 ∧ k < c.totalBits ∧
    ((c.totalBits : ℚ) - 1) * (c.slotLength - c.ticksPerBit) ≤ c.ticksPerHalfBit := by
  refine ⟨tiny, 0, 2, by decide, le_refl 0, zero_lt_one, by decide, ?_⟩
  have h : tiny.slotLength - tiny.ticksPerBit = 0 := by
    have h₂ : tiny.ticksPerBit = 2 := by decide
    rw [h₂, Config.slotLength]
    norm_num [tiny]
  rw [h, mul_zero]
  exact Nat.cast_nonneg _

theorem witness_ConsumerLatencyBound : ∃ c : Config, c.WellFormed := ⟨narrow, by decide⟩

/-- A step of the closed loop that releases the frame, and one outside COMPLETE. -/
theorem witness_ConsumerAcknowledges :
    (∃ s t : State, s.state = .complete ∧
      step { s with inputs := [{ rst := false, rx := true, frameAck := (Consumer.delay 0).ack (s.completeStep 0) }] } =
        .next t ∧ t.state = .idle) ∧
    ∃ s t : State, s.state ≠ .complete ∧
      step { s with inputs := [{ rst := false, rx := true, frameAck := (Consumer.delay 0).ack (s.completeStep 0) }] } =
        .next t :=
  ⟨⟨listed tiny .complete 0 (line true), _, rfl, rfl, rfl⟩, listed tiny .idle 0 (line true), _, by decide, rfl⟩

end Sys2Proof.Tests
end

/-! The timing bounds of 00_scope.md R8 in terms of `F` and `B`: `P` and `H` are floors, so each lower bound on them is a bound
on what is divided. -/

namespace Sys2Proof.Machine

theorem one_le_ticksPerHalfBit_iff (c : Config) : 1 ≤ c.ticksPerHalfBit ↔ 2 ≤ c.ticksPerBit :=
  Nat.one_le_div_iff Nat.two_pos

theorem two_le_ticksPerBit_iff {c : Config} (hB : 1 ≤ c.baud) : 2 ≤ c.ticksPerBit ↔ 2 * c.baud ≤ c.tickHz :=
  Nat.le_div_iff_mul_le hB

/-- The two timing bounds of 00_scope.md R8 together; the bound on `P` alone adds nothing to the one on `H`. -/
theorem timingBounds_iff {c : Config} (hB : 1 ≤ c.baud) :
    (1 ≤ c.ticksPerBit ∧ 1 ≤ c.ticksPerHalfBit) ↔ 2 * c.baud ≤ c.tickHz := by
  rw [one_le_ticksPerHalfBit_iff, ← two_le_ticksPerBit_iff hB]
  omega

/-- Settles O16: `wellFormed_iff` lists the seven bounds, and `B ≥ 1` among them turns the two on `P` and `H` into `F ≥ 2B`. -/
theorem wellFormedMeansTwoTicksPerBit : Obligations.WellFormedMeansTwoTicksPerBit := by
  intro c
  rw [wellFormed_iff]
  constructor
  · rintro ⟨hF, hB, hD, hD32, hS, hPH⟩
    exact ⟨hF, hB, hD, hD32, hS, (timingBounds_iff hB).1 hPH⟩
  · rintro ⟨hF, hB, hD, hD32, hS, hFB⟩
    exact ⟨hF, hB, hD, hD32, hS, (timingBounds_iff hB).2 hFB⟩

end Sys2Proof.Machine

/-! The state's statements (10_state.md): the counters' widths, what a step can do to the registers, the invariant of R46,
and the output ports. -/

namespace Sys2Proof.Machine

/-! ### The counters' widths -/

theorem ceilLog2_le {n w : Nat} (h : n ≤ 2 ^ w) : Config.ceilLog2 n ≤ w := by
  unfold Config.ceilLog2
  split
  · exact Nat.zero_le w
  · exact (Nat.log2_lt (by omega)).2 (by omega)

/-- `max(1, ceil(log2 n))` is the least width of at least 1 that holds `0` to `n − 1` (10_state.md R34, R35). -/
theorem max_one_ceilLog2_least (n : Nat) :
    1 ≤ max 1 (Config.ceilLog2 n) ∧ n ≤ 2 ^ max 1 (Config.ceilLog2 n) ∧
      ∀ w, 1 ≤ w → n ≤ 2 ^ w → max 1 (Config.ceilLog2 n) ≤ w :=
  ⟨le_max_left _ _, (le_two_pow_ceilLog2 n).trans (Nat.pow_le_pow_right Nat.two_pos (le_max_right _ _)),
    fun _ h₁ hn => max_le h₁ (ceilLog2_le hn)⟩

/-- Settles O18: both widths are `max(1, ceil(log2 n))`, for `n = P` and for `n = max(D, S)`. -/
theorem counterWidthsAreLeast : Obligations.CounterWidthsAreLeast :=
  fun _ _ => ⟨max_one_ceilLog2_least _, max_one_ceilLog2_least _⟩

/-! ### What a step can do -/

theorem due_iff {s : State} {T : Nat} (hT : s.threshold = some T) : s.due = true ↔ T ≤ s.elapsed + 1 := by
  simp [State.due, hT]

theorem threshold_start {s : State} (hq : s.state = .start) : s.threshold = some s.cfg.ticksPerHalfBit := by
  simp [State.threshold, hq]

theorem threshold_data {s : State} (hq : s.state = .data) : s.threshold = some s.cfg.ticksPerBit := by
  simp [State.threshold, hq]

theorem threshold_parity {s : State} (hq : s.state = .parity) : s.threshold = some s.cfg.ticksPerBit := by
  simp [State.threshold, hq]

theorem threshold_stop {s : State} (hq : s.state = .stop) : s.threshold = some s.cfg.ticksPerBit := by
  simp [State.threshold, hq]

/-- The registers of a DATA_SAMPLE before `bitIdx` and `state` are written (41_frame_decoder.md R150). -/
def State.sampleData (s : State) : State := ((s.writeDataBit s.lineRead).countOne s.lineRead).restart

/-- The registers of a STOP_SAMPLE before `bitIdx` and `state` are written (43_stop_validator.md R190). -/
def State.sampleStop (s : State) : State := (s.setStopErr (stopErrOf s.lineRead)).restart

/-- What the operation of a step without reset writes, with the guard that selects it: one case per branch of the operations
of 30_encoding.md R96, the four waits in one. -/
inductive Advance (s : State) : State → Prop
  | idleHold (hq : s.state = .idle) (hx : s.lineRead = true) : Advance s s
  | idleDetect (hq : s.state = .idle) (hx : s.lineRead = false) : Advance s (s.restart.clearFrame.goTo .start)
  | wait {T : Nat} (hT : s.threshold = some T) (he : s.elapsed + 1 < T) : Advance s s.countTick
  | startSample (hq : s.state = .start) (he : s.cfg.ticksPerHalfBit ≤ s.elapsed + 1) :
      Advance s ((((s.setStartErr (startErrOf s.lineRead)).restart).setBitIdx 0).goTo .data)
  | dataLast (hq : s.state = .data) (he : s.cfg.ticksPerBit ≤ s.elapsed + 1) (hi : s.bitIdx = s.cfg.dataBits - 1) :
      Advance s ((s.sampleData.setBitIdx 0).goTo (afterData s.cfg.parityMode))
  | dataNext (hq : s.state = .data) (he : s.cfg.ticksPerBit ≤ s.elapsed + 1) (hi : s.bitIdx ≠ s.cfg.dataBits - 1) :
      Advance s (s.sampleData.setBitIdx (s.bitIdx + 1))
  | paritySample (hq : s.state = .parity) (he : s.cfg.ticksPerBit ≤ s.elapsed + 1) :
      Advance s ((((s.setParityErr (parityErrOf s.lineRead
        (expectedParity s.cfg.parityMode s.ones s.draws))).restart).setBitIdx 0).goTo .stop)
  | stopLast (hq : s.state = .stop) (he : s.cfg.ticksPerBit ≤ s.elapsed + 1) (hi : s.bitIdx = s.cfg.stopBits - 1) :
      Advance s ((s.sampleStop.setBitIdx 0).goTo .complete)
  | stopNext (hq : s.state = .stop) (he : s.cfg.ticksPerBit ≤ s.elapsed + 1) (hi : s.bitIdx ≠ s.cfg.stopBits - 1) :
      Advance s (s.sampleStop.setBitIdx (s.bitIdx + 1))
  | completeHold (hq : s.state = .complete) (ha : s.pins.frameAck = false) : Advance s s
  | completeRelease (hq : s.state = .complete) (ha : s.pins.frameAck = true) : Advance s (s.goTo .idle)
  | reserved (hq : s.state = .reserved6 ∨ s.state = .reserved7) : Advance s (s.goTo .idle)

theorem advance_of_dataSample {s u : State} (hq : s.state = .data) (he : s.cfg.ticksPerBit ≤ s.elapsed + 1)
    (h : exec .dataSample s = .next u) : Advance s u := by
  simp only [exec, execDataSample] at h
  split at h <;> cases h
  · exact .dataLast hq he ‹_›
  · exact .dataNext hq he ‹_›

theorem advance_of_stopSample {s u : State} (hq : s.state = .stop) (he : s.cfg.ticksPerBit ≤ s.elapsed + 1)
    (h : exec .stopSample s = .next u) : Advance s u := by
  simp only [exec, execStopSample] at h
  split at h <;> cases h
  · exact .stopLast hq he ‹_›
  · exact .stopNext hq he ‹_›

/-- A timed state's step is a wait, unless it is due. -/
theorem advance_of_due {s u : State} {T : Nat} (hT : s.threshold = some T) (sample wait : Instr)
    (hw : exec wait s = .next s.countTick)
    (hs : T ≤ s.elapsed + 1 → exec sample s = .next u → Advance s u)
    (h : exec (if s.due then sample else wait) s = .next u) : Advance s u := by
  by_cases hd : s.due = true
  · rw [if_pos hd] at h
    exact hs ((due_iff hT).1 hd) h
  · rw [if_neg hd, hw] at h
    cases h
    exact .wait hT (by rw [due_iff hT] at hd; omega)

/-- The operation that a step without reset selects is one of `Advance`. -/
theorem advance_of_exec {s u : State} (hr : s.pins.rst = false) (h : exec s.fetch s = .next u) : Advance s u := by
  rw [fetch_eq, hr] at h
  cases hq : s.state <;> simp only [hq, Bool.false_eq_true, if_false] at h
  case idle =>
    cases hx : s.pins.rx <;> rw [hx] at h <;> cases h
    · exact .idleDetect hq hx
    · exact .idleHold hq hx
  case start =>
    refine advance_of_due (threshold_start hq) .startSample .startWait rfl (fun he h => ?_) h
    cases h
    exact .startSample hq he
  case data => exact advance_of_due (threshold_data hq) .dataSample .dataWait rfl (advance_of_dataSample hq) h
  case parity =>
    refine advance_of_due (threshold_parity hq) .paritySample .parityWait rfl (fun he h => ?_) h
    cases h
    exact .paritySample hq he
  case stop => exact advance_of_due (threshold_stop hq) .stopSample .stopWait rfl (advance_of_stopSample hq) h
  case complete =>
    cases ha : s.pins.frameAck <;> rw [ha] at h <;> cases h
    · exact .completeHold hq ha
    · exact .completeRelease hq ha
  case reserved6 => cases h; exact .reserved (.inl hq)
  case reserved7 => cases h; exact .reserved (.inr hq)

/-- A step with `rst = 1` writes what RESET writes (70_reset_and_hazards.md R240). -/
theorem step_of_rst {s t : State} (hr : s.pins.rst = true) (h : step s = .next t) :
    t = (s.clearFrame.restart.goTo .idle).clockTick := by
  obtain ⟨-, u, hu, rfl⟩ := step_cases h
  rw [fetch_eq, hr] at hu
  cases hu
  rfl

/-- A step with `rst = 0` writes what one of the cases of `Advance` writes. -/
theorem step_advance {s t : State} (hr : s.pins.rst = false) (h : step s = .next t) :
    ∃ u, Advance s u ∧ t = u.clockTick := by
  obtain ⟨-, u, hu, rfl⟩ := step_cases h
  exact ⟨u, advance_of_exec hr hu, rfl⟩

/-! ### The order of the states -/

theorem mem_successors_self {q : FsmState} (pm : ParityMode) (h : q ≠ .reserved6 ∧ q ≠ .reserved7) :
    q ∈ q.successors pm := by
  cases q
  case data => cases pm <;> simp [FsmState.successors]
  case reserved6 => exact absurd rfl h.1
  case reserved7 => exact absurd rfl h.2
  all_goals simp [FsmState.successors]

theorem afterData_mem_successors (pm : ParityMode) : afterData pm ∈ FsmState.data.successors pm := by
  cases pm <;> decide

theorem Advance.state_mem_successors {s u : State} (h : Advance s u) : u.state ∈ s.state.successors s.cfg.parityMode := by
  cases h with
  | idleHold hq => simp [hq, FsmState.successors]
  | idleDetect hq => simp [hq, FsmState.successors]
  | wait hT =>
    apply mem_successors_self
    constructor <;> intro hq <;> simp [State.threshold, hq] at hT
  | startSample hq => simp [hq, FsmState.successors]
  | dataLast hq => rw [hq]; exact afterData_mem_successors _
  | dataNext hq => exact mem_successors_self _ (by simp [hq])
  | paritySample hq => simp [hq, FsmState.successors]
  | stopLast hq => simp [hq, FsmState.successors]
  | stopNext hq => exact mem_successors_self _ (by simp [hq])
  | completeHold hq => simp [hq, FsmState.successors]
  | completeRelease hq => simp [hq, FsmState.successors]
  | reserved hq => rcases hq with hq | hq <;> simp [hq, FsmState.successors]

/-- Settles O32, from what a step with and without reset writes to `state`. -/
theorem statesFollowFrameOrder : Obligations.StatesFollowFrameOrder := by
  intro s t h
  constructor
  · intro hr
    obtain ⟨u, hu, rfl⟩ := step_advance hr h
    exact hu.state_mem_successors
  · intro hr
    rw [step_of_rst hr h]
    rfl

/-! ### The rows of R46's table -/

theorem rowHolds_idle {s : State} (hq : s.state = .idle) : s.rowHolds ↔ s.elapsed = 0 ∧ s.bitIdx = 0 := by
  simp only [State.rowHolds, hq]

theorem rowHolds_start {s : State} (hq : s.state = .start) :
    s.rowHolds ↔ s.elapsed < s.cfg.ticksPerHalfBit ∧ s.bitIdx = 0 ∧ s.startErr = false ∧ s.data = 0#32 ∧ s.ones = 0#6 ∧
      s.parityErr = false ∧ s.stopErr = List.replicate s.cfg.stopBits false := by
  simp only [State.rowHolds, hq]

theorem rowHolds_data {s : State} (hq : s.state = .data) :
    s.rowHolds ↔ s.elapsed < s.cfg.ticksPerBit ∧ s.bitIdx < s.cfg.dataBits ∧ s.data.toNat < 2 ^ s.bitIdx ∧
      s.parityErr = false ∧ s.stopErr = List.replicate s.cfg.stopBits false := by
  simp only [State.rowHolds, hq]

theorem rowHolds_parity {s : State} (hq : s.state = .parity) :
    s.rowHolds ↔ s.elapsed < s.cfg.ticksPerBit ∧ s.bitIdx = 0 ∧ s.cfg.parityMode ≠ .none ∧
      s.stopErr = List.replicate s.cfg.stopBits false := by
  simp only [State.rowHolds, hq]

theorem rowHolds_stop {s : State} (hq : s.state = .stop) :
    s.rowHolds ↔ s.elapsed < s.cfg.ticksPerBit ∧ s.bitIdx < s.cfg.stopBits ∧
      s.stopErr.drop s.bitIdx = List.replicate (s.cfg.stopBits - s.bitIdx) false := by
  simp only [State.rowHolds, hq]

theorem rowHolds_complete {s : State} (hq : s.state = .complete) : s.rowHolds ↔ s.elapsed = 0 ∧ s.bitIdx = 0 := by
  simp only [State.rowHolds, hq]

/-- The state in a row of the table is none of the reserved codes. -/
theorem not_reserved_of_rowHolds {s : State} (h : s.rowHolds) : ¬ (s.state = .reserved6 ∨ s.state = .reserved7) := by
  rintro (hq | hq) <;> simp only [State.rowHolds, hq] at h

/-- Every row bounds both counters by their ranges (10_state.md R34, R35). -/
theorem counters_lt_of_rowHolds {s : State} (hw : s.cfg.WellFormed) (h : s.rowHolds) :
    s.elapsed < s.cfg.ticksPerBit ∧ (s.bitIdx < s.cfg.dataBits ∨ s.bitIdx < s.cfg.stopBits) := by
  obtain ⟨-, -, hD, -, -, hP, -⟩ := (wellFormed_iff _).1 hw
  have hH := ticksPerHalfBit_le s.cfg
  cases hq : s.state
  case idle => rw [rowHolds_idle hq] at h; omega
  case start => rw [rowHolds_start hq] at h; omega
  case data => rw [rowHolds_data hq] at h; omega
  case parity => rw [rowHolds_parity hq] at h; omega
  case stop => rw [rowHolds_stop hq] at h; omega
  case complete => rw [rowHolds_complete hq] at h; omega
  case reserved6 => exact absurd (.inl hq) (not_reserved_of_rowHolds h)
  case reserved7 => exact absurd (.inr hq) (not_reserved_of_rowHolds h)

/-- The counters' widths in the invariant follow from the table. -/
theorem State.Inv.of_row {s : State} (hw : s.cfg.WellFormed) (row : s.rowHolds) (hd : s.data.toNat < 2 ^ s.cfg.dataBits)
    (ho : s.ones.toNat = popcount s.data) (hs : s.stopErr.length = s.cfg.stopBits) : s.Inv := by
  obtain ⟨he, hi⟩ := counters_lt_of_rowHolds hw row
  refine ⟨hw, row, hd, ho, hs, he.trans_le (ticksPerBit_le_elapsed _), ?_⟩
  rcases hi with hi | hi
  · exact hi.trans_le (dataBits_le_bitIdx _)
  · exact hi.trans_le (stopBits_le_bitIdx _)

/-- A row of the table with the frame's registers cleared gives the invariant. -/
theorem State.Inv.of_cleared {s : State} (hw : s.cfg.WellFormed) (row : s.rowHolds) (hd : s.data = 0#32) (ho : s.ones = 0#6)
    (hs : s.stopErr = List.replicate s.cfg.stopBits false) : s.Inv :=
  .of_row hw row (by simp [hd]) (by rw [hd, ho]; decide) (by simp [hs])

/-! ### The invariant at reset -/

theorem inv_resetFor {c : Config} (hw : c.WellFormed) : (State.resetFor c).Inv :=
  .of_cleared hw ((rowHolds_idle rfl).2 ⟨rfl, rfl⟩) rfl rfl rfl

/-- Settles O28: the reset state is the launch state of `Config.initial`, which is well formed. -/
theorem invariantHoldsAtReset : Obligations.InvariantHoldsAtReset :=
  ⟨inv_resetFor (by decide), fun _ => inv_resetFor⟩

/-! ### The invariant after each operation -/

/-- The invariant says nothing of the inputs and the time. -/
theorem State.Inv.clockTick {s : State} (h : s.Inv) : s.clockTick.Inv :=
  ⟨h.built, h.row, h.dataWidth, h.onesCount, h.stopEntries, h.elapsedFits, h.bitIdxFits⟩

theorem State.Inv.reset {s : State} (h : s.Inv) : (s.clearFrame.restart.goTo .idle).Inv :=
  .of_cleared h.built ((rowHolds_idle rfl).2 ⟨rfl, rfl⟩) rfl rfl rfl

theorem State.Inv.idleDetect {s : State} (h : s.Inv) : (s.restart.clearFrame.goTo .start).Inv := by
  obtain ⟨-, -, -, -, -, -, hH⟩ := (wellFormed_iff _).1 h.built
  exact .of_cleared h.built ((rowHolds_start rfl).2 ⟨hH, rfl, rfl, rfl, rfl, rfl, rfl⟩) rfl rfl rfl

/-- A row of a timed state survives a count that stays below the state's threshold. -/
theorem rowHolds_countTick {s : State} {T : Nat} (row : s.rowHolds) (hT : s.threshold = some T)
    (he : s.countTick.elapsed < T) : s.countTick.rowHolds := by
  cases hq : s.state <;> simp only [State.threshold, hq, Option.some.injEq, reduceCtorEq] at hT <;> subst hT
  case start => exact (rowHolds_start (s := s.countTick) hq).2 ⟨he, ((rowHolds_start hq).1 row).2⟩
  case data => exact (rowHolds_data (s := s.countTick) hq).2 ⟨he, ((rowHolds_data hq).1 row).2⟩
  case parity => exact (rowHolds_parity (s := s.countTick) hq).2 ⟨he, ((rowHolds_parity hq).1 row).2⟩
  case stop => exact (rowHolds_stop (s := s.countTick) hq).2 ⟨he, ((rowHolds_stop hq).1 row).2⟩

theorem State.Inv.wait {s : State} {T : Nat} (h : s.Inv) (hT : s.threshold = some T) (he : s.elapsed + 1 < T) :
    s.countTick.Inv :=
  .of_row h.built (rowHolds_countTick h.row hT ((Nat.mod_le _ _).trans_lt he)) h.dataWidth h.onesCount h.stopEntries

theorem State.Inv.startSample {s : State} (h : s.Inv) (hq : s.state = .start) :
    ((((s.setStartErr (startErrOf s.lineRead)).restart).setBitIdx 0).goTo .data).Inv := by
  obtain ⟨-, -, hD, -, -, hP, -⟩ := (wellFormed_iff _).1 h.built
  obtain ⟨-, -, -, hd, -, hp, hs⟩ := (rowHolds_start hq).1 h.row
  refine .of_row h.built ((rowHolds_data rfl).2 ⟨hP, (cutTo_zero _).trans_lt hD, ?_, hp, hs⟩) h.dataWidth h.onesCount
    h.stopEntries
  simp [hd]

/-- DATA_SAMPLE's data and count, inside the DATA row of the table. -/
theorem sampleData_data_ones {s : State} (h : s.Inv) (hq : s.state = .data) :
    s.sampleData.data.toNat < 2 ^ (s.bitIdx + 1) ∧ s.sampleData.ones.toNat = popcount s.sampleData.data := by
  obtain ⟨-, -, -, hD, -⟩ := (wellFormed_iff _).1 h.built
  obtain ⟨-, hi, hd, -⟩ := (rowHolds_data hq).1 h.row
  have hc := popcount_le hd (by omega)
  refine ⟨setBit_lt _ hd, ?_⟩
  change (s.ones + if s.lineRead then 1#6 else 0#6).toNat = popcount (setBit s.data s.bitIdx s.lineRead)
  rw [popcount_setBit _ (by omega) hd, BitVec.toNat_add, h.onesCount]
  cases s.lineRead <;> simp <;> omega

theorem State.Inv.dataNext {s : State} (h : s.Inv) (hq : s.state = .data) (hi : s.bitIdx ≠ s.cfg.dataBits - 1) :
    (s.sampleData.setBitIdx (s.bitIdx + 1)).Inv := by
  obtain ⟨-, -, -, -, -, hP, -⟩ := (wellFormed_iff _).1 h.built
  obtain ⟨-, hlt, -, hp, hs⟩ := (rowHolds_data hq).1 h.row
  obtain ⟨hd, ho⟩ := sampleData_data_ones h hq
  have hnext : s.bitIdx + 1 < s.cfg.dataBits := by omega
  have hidx : (s.sampleData.setBitIdx (s.bitIdx + 1)).bitIdx = s.bitIdx + 1 :=
    cutTo_of_lt (hnext.trans_le (dataBits_le_bitIdx s.cfg))
  have row : (s.sampleData.setBitIdx (s.bitIdx + 1)).rowHolds := by
    refine (rowHolds_data (by exact hq)).2 ⟨hP, ?_, ?_, hp, hs⟩ <;> rw [hidx]
    · exact hnext
    · exact hd
  exact .of_row h.built row (hd.trans_le (Nat.pow_le_pow_right Nat.two_pos hnext.le)) ho h.stopEntries

theorem afterData_of_ne_none {pm : ParityMode} (h : pm ≠ .none) : afterData pm = .parity := by
  cases pm
  case none => exact absurd rfl h
  all_goals rfl

/-- The row of the state that follows the last data bit: PARITY only in a block with a parity mode. -/
theorem rowHolds_afterData {s : State} (hP : 1 ≤ s.cfg.ticksPerBit) (hS : 1 ≤ s.cfg.stopBits) (he : s.elapsed = 0)
    (hi : s.bitIdx = 0) (hs : s.stopErr = List.replicate s.cfg.stopBits false) (hq : s.state = afterData s.cfg.parityMode) :
    s.rowHolds := by
  by_cases hpm : s.cfg.parityMode = .none
  · rw [hpm] at hq
    exact (rowHolds_stop hq).2 ⟨by omega, by omega, by simp [hi, hs]⟩
  · exact (rowHolds_parity (hq.trans (afterData_of_ne_none hpm))).2 ⟨by omega, hi, hpm, hs⟩

theorem State.Inv.dataLast {s : State} (h : s.Inv) (hq : s.state = .data) (hi : s.bitIdx = s.cfg.dataBits - 1) :
    ((s.sampleData.setBitIdx 0).goTo (afterData s.cfg.parityMode)).Inv := by
  obtain ⟨-, -, -, -, hS, hP, -⟩ := (wellFormed_iff _).1 h.built
  obtain ⟨-, hlt, -, -, hs⟩ := (rowHolds_data hq).1 h.row
  obtain ⟨hd, ho⟩ := sampleData_data_ones h hq
  rw [show s.bitIdx + 1 = s.cfg.dataBits by omega] at hd
  exact .of_row h.built (rowHolds_afterData hP hS rfl (cutTo_zero _) hs rfl) hd ho h.stopEntries

theorem State.Inv.paritySample {s : State} (h : s.Inv) (hq : s.state = .parity) (e : Level) :
    ((((s.setParityErr e).restart).setBitIdx 0).goTo .stop).Inv := by
  obtain ⟨-, -, -, -, hS, hP, -⟩ := (wellFormed_iff _).1 h.built
  obtain ⟨-, -, -, hs⟩ := (rowHolds_parity hq).1 h.row
  refine .of_row h.built ((rowHolds_stop rfl).2 ⟨hP, (cutTo_zero _).trans_lt hS, ?_⟩) h.dataWidth h.onesCount
    h.stopEntries
  simp [hs]

theorem length_sampleStop_stopErr {s : State} (h : s.Inv) : s.sampleStop.stopErr.length = s.cfg.stopBits :=
  List.length_set.trans h.stopEntries

/-- Writing entry `i` leaves the later entries 0. -/
theorem drop_succ_set_of_drop_eq_replicate {l : List Level} {i S : Nat} (e : Level)
    (h : l.drop i = List.replicate (S - i) false) : (l.set i e).drop (i + 1) = List.replicate (S - (i + 1)) false := by
  rw [List.drop_set_of_lt (Nat.lt_add_one i), ← List.drop_drop, h, List.drop_replicate, Nat.sub_sub]

theorem State.Inv.stopNext {s : State} (h : s.Inv) (hq : s.state = .stop) (hi : s.bitIdx ≠ s.cfg.stopBits - 1) :
    (s.sampleStop.setBitIdx (s.bitIdx + 1)).Inv := by
  obtain ⟨-, -, -, -, -, hP, -⟩ := (wellFormed_iff _).1 h.built
  obtain ⟨-, hlt, hs⟩ := (rowHolds_stop hq).1 h.row
  have hnext : s.bitIdx + 1 < s.cfg.stopBits := by omega
  have hidx : (s.sampleStop.setBitIdx (s.bitIdx + 1)).bitIdx = s.bitIdx + 1 :=
    cutTo_of_lt (hnext.trans_le (stopBits_le_bitIdx s.cfg))
  have row : (s.sampleStop.setBitIdx (s.bitIdx + 1)).rowHolds := by
    refine (rowHolds_stop (by exact hq)).2 ⟨hP, ?_, ?_⟩ <;> rw [hidx]
    · exact hnext
    · exact drop_succ_set_of_drop_eq_replicate _ hs
  exact .of_row h.built row h.dataWidth h.onesCount (length_sampleStop_stopErr h)

theorem State.Inv.stopLast {s : State} (h : s.Inv) : ((s.sampleStop.setBitIdx 0).goTo .complete).Inv :=
  .of_row h.built ((rowHolds_complete rfl).2 ⟨rfl, cutTo_zero _⟩) h.dataWidth h.onesCount (length_sampleStop_stopErr h)

theorem State.Inv.completeRelease {s : State} (h : s.Inv) (hq : s.state = .complete) : (s.goTo .idle).Inv :=
  .of_row h.built ((rowHolds_idle rfl).2 ((rowHolds_complete hq).1 h.row)) h.dataWidth h.onesCount h.stopEntries

theorem State.Inv.advance {s u : State} (h : s.Inv) (ha : Advance s u) : u.Inv := by
  cases ha with
  | idleHold => exact h
  | idleDetect => exact h.idleDetect
  | wait hT he => exact h.wait hT he
  | startSample hq => exact h.startSample hq
  | dataLast hq _ hi => exact h.dataLast hq hi
  | dataNext hq _ hi => exact h.dataNext hq hi
  | paritySample hq => exact h.paritySample hq _
  | stopLast => exact h.stopLast
  | stopNext hq _ hi => exact h.stopNext hq hi
  | completeHold => exact h
  | completeRelease hq => exact h.completeRelease hq
  | reserved hq => exact absurd hq (not_reserved_of_rowHolds h.row)

/-- Settles O29: RESET and every other operation that a step can run keep the invariant, and the end of the tick writes no
register. -/
theorem everyStepKeepsInvariant : Obligations.EveryStepKeepsInvariant := by
  intro s t hinv h
  cases hr : s.pins.rst
  · obtain ⟨u, hu, rfl⟩ := step_advance hr h
    exact (hinv.advance hu).clockTick
  · rw [step_of_rst hr h]
    exact hinv.reset.clockTick

/-! ### The parity flag without a parity mode -/

/-- Only PARITY_SAMPLE can set the parity flag, and the invariant has no PARITY state under `PM = None`. -/
theorem State.Inv.parityQuiet_advance {s u : State} (h : s.Inv) (hp : s.parityQuiet) (ha : Advance s u) : u.parityQuiet := by
  cases ha
  case idleDetect => exact fun _ => rfl
  case paritySample hq _ =>
    obtain ⟨-, -, hpm, -⟩ := (rowHolds_parity hq).1 h.row
    exact fun hnone => absurd hnone hpm
  all_goals exact hp

/-- Settles O30: RESET clears the flag, and the other operations keep it at 0 under `PM = None`. -/
theorem parityFlagStaysClearWithoutParity : Obligations.ParityFlagStaysClearWithoutParity := by
  intro s t hinv hp h
  cases hr : s.pins.rst
  · obtain ⟨u, hu, rfl⟩ := step_advance hr h
    exact (hinv.parityQuiet_advance hp hu : u.parityQuiet)
  · rw [step_of_rst hr h]
    exact fun _ => rfl

/-! ### The operation of a step -/

/-- The byte of a selector decodes to the selector's operation. -/
theorem decodeBytes_selector (sel : Selector) : decodeBytes [sel.setWidth 8] = .ok (decodeSelector sel) := by
  have h7 : (sel.setWidth 8).getLsbD 7 = false := by simp
  have hlow : (sel.setWidth 8).extractLsb' 0 7 = sel := by
    ext k hk
    simp [hk, Nat.lt_succ_of_lt hk]
  rw [decodeBytes, h7, hlow]
  rfl

/-- The end of the tick after an operation, from what every operation leaves alone. -/
theorem clockTick_of_exec {i : Instr} {s t : State} (h : exec i s = .next t) :
    t.clockTick = { t with
      inputs := s.inputs.tail, draws := s.draws + 1, tick := if s.pins.rst then 0 else s.tick + 1 } := by
  obtain ⟨t', h', -, hi, hd, ht⟩ := exec_cases i s
  obtain rfl : t = t' := by rw [h] at h'; cases h'; rfl
  have hpins : t.pins = s.pins := inputAt_congr hi hd 0
  simp only [State.clockTick, hi, hd, ht, hpins]

/-- Settles O13: the selector's byte decodes to the operation that `step` fetches. -/
theorem stepRunsSelectedOperation : Obligations.StepRunsSelectedOperation := by
  refine ⟨fun s => ⟨_, decodeBytes_selector _⟩, ?_⟩
  intro s t i hw hdec hexec
  rw [decodeBytes_selector] at hdec
  cases hdec
  rw [step_of_exec hw hexec, clockTick_of_exec hexec]

/-! ### The output ports -/

theorem frameValid_iff (s : State) : s.frameValid = true ↔ s.state = .complete := decide_eq_true_iff

theorem presented_of_complete {s : State} (hq : s.state = .complete) : s.presented = some s.frameRegisters :=
  if_pos ((frameValid_iff s).2 hq)

theorem presented_of_not_complete {s : State} (hq : s.state ≠ .complete) : s.presented = none :=
  if_neg (mt (frameValid_iff s).1 hq)

theorem outputs_of_complete {s : State} (hq : s.state = .complete) : s.outputs =
    { frameValid := true, frameData := s.data, frameStartErr := s.startErr, frameParityErr := s.parityErr,
      frameStopErr := s.stopErr } := by
  rw [State.outputs, (frameValid_iff s).2 hq]

/-- Settles O38, in COMPLETE and in any other state. -/
theorem outputsDriveRegisters : Obligations.OutputsDriveRegisters := by
  intro s
  refine ⟨frameValid_iff s, outputs_of_complete, ?_⟩
  by_cases hq : s.state = .complete
  · simp [presented_of_complete hq, hq]
  · simp [presented_of_not_complete hq, hq]

/-- Settles O19: the launch state is R47's by definition, and in IDLE no frame is presented. -/
theorem resetValues : Obligations.ResetValues :=
  ⟨rfl, fun _ => ⟨rfl, rfl, rfl, rfl, rfl, rfl, rfl, rfl, rfl, presented_of_not_complete (by simp [State.resetFor])⟩⟩

end Sys2Proof.Machine

/-! Access to the outside (20_memory.md): which operations read the line (R71), and what a step answers when this tick's levels on
`rx` or `frame_ack` are changed. -/

namespace Sys2Proof.Machine

/-- The operations that call `LineRead()` (20_memory.md R71): the two of IDLE, which the line chooses between, and the four
samples. -/
def readsLine : Instr → Bool
  | .idleHold | .idleDetect | .startSample | .dataSample | .paritySample | .stopSample => true
  | .reset | .startWait | .dataWait | .parityWait | .stopWait | .completeHold | .completeRelease | .reservedState => false

/-! ### This tick's input levels -/

theorem pins_of_inputs {s : State} {p : Pins} {rest : List Pins} (h : s.inputs = p :: rest) : s.pins = p := by
  simp [State.pins, State.inputAt, h]

/-- The state with other input levels listed for the coming ticks. -/
def State.withInputs (s : State) (ps : List Pins) : State := { s with inputs := ps }

@[simp] theorem State.withInputs_state (s : State) (ps : List Pins) : (s.withInputs ps).state = s.state := rfl

@[simp] theorem State.withInputs_due (s : State) (ps : List Pins) : (s.withInputs ps).due = s.due := rfl

@[simp] theorem State.withInputs_pins (s : State) (p : Pins) (rest : List Pins) : (s.withInputs (p :: rest)).pins = p := rfl

/-! ### The operation that a step selects -/

/-- An operation that does not read the line is selected whatever the line's level is. -/
theorem fetch_withRx {s : State} {p : Pins} {rest : List Pins} (level : Level) (hi : s.inputs = p :: rest)
    (h : readsLine s.fetch = false) : (s.withInputs ({ p with rx := level } :: rest)).fetch = s.fetch := by
  rw [fetch_eq, pins_of_inputs hi] at h
  rw [fetch_eq, fetch_eq, State.withInputs_pins, State.withInputs_state, State.withInputs_due, pins_of_inputs hi]
  cases hr : p.rst
  case true => rfl
  case false =>
    cases hq : s.state
    case idle => cases hx : p.rx <;> simp [hr, hq, hx, readsLine] at h
    all_goals rfl

/-- Only COMPLETE chooses its operation by `frame_ack`. -/
theorem fetch_withFrameAck {s : State} {p : Pins} {rest : List Pins} (level : Level) (hi : s.inputs = p :: rest)
    (hq : s.state ≠ .complete) : (s.withInputs ({ p with frameAck := level } :: rest)).fetch = s.fetch := by
  rw [fetch_eq, fetch_eq, State.withInputs_pins, State.withInputs_state, State.withInputs_due, pins_of_inputs hi]
  cases hs : s.state
  case complete => exact absurd hs hq
  all_goals rfl

theorem readsLine_of_rst {s : State} (hr : s.pins.rst = true) : readsLine s.fetch = false := by
  rw [fetch_eq, hr]
  rfl

theorem readsLine_of_complete {s : State} (hq : s.state = .complete) : readsLine s.fetch = false := by
  rw [fetch_eq, hq]
  cases s.pins.rst
  · cases s.pins.frameAck <;> rfl
  · rfl

/-- A timed step that is not due is a wait, unless it is a RESET. -/
theorem readsLine_of_not_due {s : State} (hd : s.due = false)
    (hq : s.state = .start ∨ s.state = .data ∨ s.state = .parity ∨ s.state = .stop) : readsLine s.fetch = false := by
  rw [fetch_eq, hd]
  cases s.pins.rst
  · rcases hq with hq | hq | hq | hq <;> rw [hq] <;> rfl
  · rfl

/-! ### What a step answers under other input levels -/

/-- Of the input levels an operation reads at most the line. -/
theorem exec_withInputs {i : Instr} {s u : State} {ps : List Pins}
    (hx : readsLine i = false ∨ (s.withInputs ps).lineRead = s.lineRead) (h : exec i s = .next u) :
    exec i (s.withInputs ps) = .next (u.withInputs ps) := by
  cases i
  case startSample | paritySample =>
    have hx := hx.resolve_left (by decide)
    cases h
    simp only [exec, execStartSample, execParitySample, hx]
    rfl
  case dataSample | stopSample =>
    have hx := hx.resolve_left (by decide)
    simp only [exec, execDataSample, execStopSample, hx] at h ⊢
    split at h <;> cases h
    · rw [if_pos ‹_›]; rfl
    · rw [if_neg ‹_›]; rfl
  all_goals cases h; rfl

/-- Other levels on this tick's inputs leave the answer as it is when they keep `rst`, the selected operation, and the line if
that operation reads it. -/
theorem step_withInputs {s : State} {p p' : Pins} {rest : List Pins} (hi : s.inputs = p :: rest) (hr : p'.rst = p.rst)
    (hf : (s.withInputs (p' :: rest)).fetch = s.fetch) (hx : readsLine s.fetch = false ∨ p'.rx = p.rx) :
    step (s.withInputs (p' :: rest)) = step s := by
  by_cases hw : s.cfg.WellFormed
  · obtain ⟨u, hu, -⟩ := exec_cases s.fetch s
    have hu' : exec s.fetch (s.withInputs (p' :: rest)) = .next (u.withInputs (p' :: rest)) := by
      refine exec_withInputs (hx.imp_right fun hx => ?_) hu
      rw [State.lineRead, State.lineRead, State.withInputs_pins, pins_of_inputs hi, hx]
    rw [step_of_exec hw hu, step_of_exec (by exact hw) (hf ▸ hu'), clockTick_of_exec hu, clockTick_of_exec hu',
      State.withInputs_pins, pins_of_inputs hi, hr, hi]
    rfl
  · rw [step, step, if_neg hw, if_neg (by exact hw)]

/-- The line has no effect on a step whose operation does not read it (20_memory.md R71). -/
theorem step_withRx {s : State} {p : Pins} {rest : List Pins} (level : Level) (hi : s.inputs = p :: rest)
    (h : readsLine s.fetch = false) : step (s.withInputs ({ p with rx := level } :: rest)) = step s :=
  step_withInputs hi rfl (fetch_withRx level hi h) (.inl h)

/-- Settles O33: RESET, the operations of COMPLETE and the waits do not read the line. -/
theorem lineIgnoredOutsideSampleSteps : Obligations.LineIgnoredOutsideSampleSteps := by
  intro s p rest level hi h
  refine step_withRx level hi ?_
  rcases h with hr | hq | ⟨hd, hq⟩
  · exact readsLine_of_rst (by rw [pins_of_inputs hi, hr])
  · exact readsLine_of_complete hq
  · exact readsLine_of_not_due hd hq

/-- Settles O34: outside COMPLETE the same operation is selected, and no operation reads `frame_ack`. -/
theorem acknowledgeIgnoredOutsideComplete : Obligations.AcknowledgeIgnoredOutsideComplete :=
  fun _ _ _ level hi hq => step_withInputs hi rfl (fetch_withFrameAck level hi hq) (.inr rfl)

end Sys2Proof.Machine

/-! A whole frame (30_encoding.md R92, R100, R103): the slots of a detected frame one after another, and the line of a sent
frame at the sample ticks. -/

namespace Sys2Proof.Machine

/-! ### The frame of a detection -/

/-- The detection leaves what slot 0 starts from. -/
theorem slotEntry_of_detect {s : State} (hw : s.cfg.WellFormed) (hq : s.state = .idle) (hx : s.lineRead = false)
    (hr : (s.inputAt 0).rst = false) : ∃ t, SlotEntry s 0 t := by
  have hex : exec s.fetch s = .next (s.restart.clearFrame.goTo .start) := by
    rw [fetch_eq, hq, State.pins, hr, show (s.inputAt 0).rx = false from hx]
    rfl
  exact ⟨_, {
    prog := (Prog.zero s).step hw hr hex
    elapsed := rfl
    state := rfl
    idx := rfl
    data := by simp [slotSum]
    lt := by simp
    ones := (by decide : (0#6).toNat = popcount 0#32)
    start := by simp
    par := by simp
    stop := by simp [List.map_const'] }⟩

/-- From a detection with no reset every slot of the frame is entered, and COMPLETE after the last. -/
theorem exists_slotEntry {s : State} (hw : s.cfg.WellFormed) (hq : s.state = .idle) (hx : s.lineRead = false)
    (hr : ∀ n, n < s.cfg.completeTick → (s.inputAt n).rst = false) {k : Nat} (hk : k ≤ s.cfg.totalBits) :
    ∃ t, SlotEntry s k t := by
  induction k with
  | zero => exact slotEntry_of_detect hw hq hx (hr 0 (Nat.succ_pos _))
  | succ k ih =>
    obtain ⟨t, ht⟩ := ih (Nat.le_of_succ_le hk)
    exact sample_slot hw ht hk hr

theorem totalBits_eq (c : Config) : c.totalBits = 1 + c.dataBits + c.paritySlots + c.stopBits := rfl

theorem slotEntry_totalBits (c : Config) : slotEntry c c.totalBits = c.completeTick :=
  if_neg (by have := totalBits_eq c; omega)

theorem slotState_totalBits (c : Config) : slotState c c.totalBits = .complete := by
  have hN := totalBits_eq c
  rw [slotState, if_neg (by omega), if_neg (by omega), if_neg (by omega), if_neg (by omega)]

theorem slotIndex_totalBits (c : Config) : slotIndex c c.totalBits = 0 := by
  have hN := totalBits_eq c
  rw [slotIndex, if_neg (by omega), if_neg (by omega), if_neg (by omega), if_neg (by omega)]

/-- Settles O42: the entry past the last slot, which `sample_slot` reaches slot by slot, is COMPLETE with the whole frame. -/
theorem frameIsDecodedFromItsSamples : Obligations.FrameIsDecodedFromItsSamples := by
  intro s hw hq hx hr
  obtain ⟨-, -, -, -, hS, -⟩ := (wellFormed_iff _).1 hw
  have hN := totalBits_eq s.cfg
  obtain ⟨t, ht⟩ := exists_slotEntry hw hq hx hr le_rfl
  have hprog := slotEntry_totalBits s.cfg ▸ ht.prog
  have hmin : min (s.cfg.totalBits - 1) s.cfg.dataBits = s.cfg.dataBits := by omega
  refine ⟨t, hprog.run, hprog.cfg, ht.state.trans (slotState_totalBits _), ht.elapsed, ht.idx.trans (slotIndex_totalBits _),
    hprog.tick, hmin ▸ ht.data, ht.ones, ht.start (by omega), ?_, ?_⟩
  · rw [ht.par, if_pos (by omega)]
    rfl
  · rw [ht.stop]
    refine List.map_congr_left fun j hj => if_pos ?_
    have := List.mem_range.1 hj
    omega

/-! ### The line of a sent frame -/

theorem ticksPerHalfBit_lt {c : Config} (hw : c.WellFormed) : c.ticksPerHalfBit < c.ticksPerBit := by
  obtain ⟨-, -, -, -, -, hP, -⟩ := (wellFormed_iff _).1 hw
  exact Nat.div_lt_self hP one_lt_two

/-- The sample tick of slot `k` lies in the `k`-th period of `P` ticks. -/
theorem sampleTick_div {c : Config} (hw : c.WellFormed) (k : Nat) : c.sampleTick k / c.ticksPerBit = k := by
  have hH := ticksPerHalfBit_lt hw
  rw [Config.sampleTick, Nat.add_mul_div_right _ _ (by omega), Nat.div_eq_of_lt hH, Nat.zero_add]

/-- A frame's last sample comes before the end of its last slot. -/
theorem completeTick_le {c : Config} (hw : c.WellFormed) : c.completeTick ≤ c.totalBits * c.ticksPerBit := by
  have hH := ticksPerHalfBit_lt hw
  obtain ⟨m, hm⟩ := Nat.exists_eq_add_one_of_ne_zero (by have := totalBits_eq c; omega : c.totalBits ≠ 0)
  rw [Config.completeTick, Config.sampleTick, hm, Nat.add_mul, Nat.add_sub_cancel]
  omega

/-- The line of `frame v` on a tick of its `N` slots. -/
theorem inputAt_sentFrame {s : State} {v : DataWord} {rest : List Pins} (hw : s.cfg.WellFormed)
    (hi : s.inputs = ((Segment.frame v none none none).levels s.cfg).map autoPins ++ rest) {n : Nat}
    (hn : n < s.cfg.totalBits * s.cfg.ticksPerBit) :
    s.inputAt n = autoPins (sentLevel s.cfg v (n / s.cfg.ticksPerBit)) := by
  obtain ⟨-, -, -, -, -, hP, -⟩ := (wellFormed_iff _).1 hw
  have hlevel : ((Segment.frame v none none none).levels s.cfg)[n]? = some (sentLevel s.cfg v (n / s.cfg.ticksPerBit)) := by
    rw [Segment.levels, getElem?_holdSlots _ hP, frameSlots_get]
    exact Nat.div_lt_of_lt_mul (Nat.mul_comm _ _ ▸ hn)
  have hlen : n < (((Segment.frame v none none none).levels s.cfg).map autoPins).length := by
    rw [List.length_map]
    exact (List.getElem?_eq_some_iff.1 hlevel).1
  rw [State.inputAt, hi, List.getElem?_append_left hlen, List.getElem?_map, hlevel]
  rfl

/-- Every sample of a sent frame is its slot's level. -/
theorem slotLevel_sentFrame {s : State} {v : DataWord} {rest : List Pins} (hw : s.cfg.WellFormed)
    (hi : s.inputs = ((Segment.frame v none none none).levels s.cfg).map autoPins ++ rest) {k : Nat}
    (hk : k < s.cfg.totalBits) : s.slotLevel k = sentLevel s.cfg v k := by
  have hn : s.cfg.sampleTick k < s.cfg.totalBits * s.cfg.ticksPerBit := by
    rw [← Nat.div_lt_iff_lt_mul (by have := ticksPerHalfBit_lt hw; omega), sampleTick_div hw]
    exact hk
  rw [State.slotLevel, inputAt_sentFrame hw hi hn, sampleTick_div hw]
  rfl

/-! ### The samples of a sent frame -/

theorem sentLevel_data {c : Config} (v : DataWord) {i : Nat} (hi : i < c.dataBits) :
    sentLevel c v (1 + i) = v.getLsbD i := by
  rw [sentLevel, if_neg (by omega), if_pos (by omega), Nat.add_sub_cancel_left]

theorem sentLevel_parity {c : Config} (v : DataWord) (hc : c.paritySlots = 1) :
    sentLevel c v (c.dataBits + 1) = sentParity c v := by
  rw [sentLevel, if_neg (by omega), if_neg (by omega), if_pos (by omega)]

theorem sentLevel_stop (c : Config) (v : DataWord) (j : Nat) :
    sentLevel c v (c.dataBits + 1 + c.paritySlots + j) = true := by
  rw [sentLevel, if_neg (by omega), if_neg (by omega), if_neg (by omega)]

/-- The parity slot that is sent is the one that the check of the sent data expects. -/
theorem parityOutcome_sent {c : Config} {v : DataWord} {L : Nat → Level} (hD : c.dataBits ≤ 32)
    (hv : v.toNat < 2 ^ c.dataBits) (hL : c.paritySlots = 1 → L (c.dataBits + 1) = sentParity c v) :
    parityOutcome c L v = false := by
  cases hpm : c.parityMode <;> simp only [parityOutcome, hpm]
  case even | odd =>
    rw [hL (by simp [Config.paritySlots, hpm]), popcount_low hv hD]
    simp [sentParity, hpm]

/-- Settles O44: the frame decoded from the `N` samples is `v` without errors when they are the levels sent. -/
theorem sentFrameIsReceivedClean : Obligations.SentFrameIsReceivedClean := by
  intro s v rest hw hq hv hi
  obtain ⟨-, -, -, hD, -⟩ := (wellFormed_iff _).1 hw
  have hN := totalBits_eq s.cfg
  have hpins : ∀ n, n < s.cfg.completeTick → s.inputAt n = autoPins (sentLevel s.cfg v (n / s.cfg.ticksPerBit)) :=
    fun n hn => inputAt_sentFrame hw hi (hn.trans_le (completeTick_le hw))
  have hx : s.lineRead = false := by
    rw [State.lineRead, State.pins, hpins 0 (Nat.succ_pos _), Nat.zero_div]
    rfl
  have hL : ∀ {k}, k < s.cfg.totalBits → s.slotLevel k = sentLevel s.cfg v k := fun hk => slotLevel_sentFrame hw hi hk
  obtain ⟨t, hrun, -, hst, -, -, -, hdata, -, hstart, hpar, hstop⟩ :=
    frameIsDecodedFromItsSamples s hw hq hx fun n hn => by rw [hpins n hn]; rfl
  have htv : t.data = v := by
    apply BitVec.eq_of_toNat_eq
    rw [hdata, slotSum_bits v.toNat _ _ fun i hlt => by rw [hL (by omega), sentLevel_data v hlt]; rfl, Nat.mod_eq_of_lt hv]
  have hpar' : t.parityErr = false := by
    refine Eq.trans (hpar : t.parityErr = parityOutcome s.cfg s.slotLevel t.data) ?_
    rw [htv]
    exact parityOutcome_sent hD hv fun h1 => by rw [hL (by omega), sentLevel_parity v h1]
  have hstop' : t.stopErr = List.replicate s.cfg.stopBits false := by
    rw [hstop, List.eq_replicate_iff, List.length_map, List.length_range]
    refine ⟨rfl, List.forall_mem_map.2 fun j hj => ?_⟩
    have hj := List.mem_range.1 hj
    rw [hL (by omega), sentLevel_stop]
    rfl
  refine ⟨t, hrun, ?_⟩
  rw [presented_of_complete hst, State.frameRegisters, htv, hstart, hL (by omega), hpar', hstop']
  rfl

end Sys2Proof.Machine

/-! The encodings (30_encoding.md): state codes (R95), the selector's rows (R96, R97), the build interface (R94, R98), and
the operations that a run can select (R97, R99). -/

namespace Sys2Proof.Machine

/-! ### State codes -/

@[simp] theorem FsmState.ofCode_code (q : FsmState) : FsmState.ofCode q.code = q := by cases q <;> rfl

@[simp] theorem FsmState.code_ofCode (c : BitVec 3) : (FsmState.ofCode c).code = c := by revert c; decide

/-- Settles O26: the codes are written out in `FsmState.code`, and `ofCode` inverts it on both sides. -/
theorem stateCodes : Obligations.StateCodes :=
  ⟨rfl, rfl, rfl, rfl, rfl, rfl, FsmState.ofCode_code, FsmState.code_ofCode⟩

theorem state_of_code {s : State} {c : BitVec 3} (h : s.state.code = c) : s.state = FsmState.ofCode c := by
  rw [← h, FsmState.ofCode_code]

/-- Settles O12: the two codes are the two reserved states, whose row is the reserved one. -/
theorem reservedCodesReturnToIdle : Obligations.ReservedCodesReturnToIdle := by
  intro s hr hc
  refine ⟨?_, rfl⟩
  rcases hc with hc | hc <;> rw [fetch_eq, hr, state_of_code hc] <;> rfl

/-! ### The selector's rows -/

/-- The bits of `{rst, state[2:0], due, rx, frame_ack}`, each in its place. -/
theorem selector_bits (r d x a : Bool) (c : BitVec 3) :
    let sel : Selector := BitVec.ofBool r ++ c ++ BitVec.ofBool d ++ BitVec.ofBool x ++ BitVec.ofBool a
    sel.getLsbD 6 = r ∧ sel.extractLsb' 3 3 = c ∧ sel.getLsbD 2 = d ∧ sel.getLsbD 1 = x ∧ sel.getLsbD 0 = a := by
  revert r d x a c
  decide

/-- The row that the decoder gives has the selector's fixed bits. -/
theorem rowMatches_decodeSelector (sel : Selector) : rowMatches (decodeSelector sel) sel = true := by
  revert sel
  decide

/-- The decoder reads a row's fixed bits only: the don't-cares do not matter. -/
theorem decodeSelector_encodeWith (i : Instr) (dontCare : Selector) : decodeSelector (encodeWith i dontCare) = i := by
  cases i <;> revert dontCare <;> decide

/-- A selector in a row is the row's fixed bits with the selector's own bits in the don't-care places. -/
theorem encodeWith_of_rowMatches {i : Instr} {sel : Selector} (h : rowMatches i sel = true) : encodeWith i sel = sel := by
  rw [rowMatches, beq_iff_eq] at h
  rw [encodeWith, ← h, ← BitVec.and_or_distrib_left, BitVec.or_not_self, BitVec.and_allOnes]

theorem rowMatches_iff (sel : Selector) (i : Instr) : rowMatches i sel = true ↔ decodeSelector sel = i := by
  constructor
  · intro h
    rw [← encodeWith_of_rowMatches h, decodeSelector_encodeWith]
  · rintro rfl
    exact rowMatches_decodeSelector sel

theorem due_of_threshold_none {s : State} (h : s.threshold = none) : s.due = false := by rw [State.due, h]

/-- Settles O21: the bits one by one, and `rowMatches_iff` for the rows. -/
theorem selectorRowsPartitionAllSelectors : Obligations.SelectorRowsPartitionAllSelectors := by
  refine ⟨fun s => ?_, rowMatches_iff⟩
  obtain ⟨hr, hc, hd, hx, ha⟩ := selector_bits s.pins.rst s.due s.pins.rx s.pins.frameAck s.state.code
  refine ⟨hr, hc, hd, hx, ha, fun hq => due_of_threshold_none ?_⟩
  rcases hq with hq | hq <;> rw [State.threshold, hq]

/-- Settles O24: a selector's byte decodes to the selector's operation, and an encoding's operation is the one encoded. -/
theorem decodeOfEncode : Obligations.DecodeOfEncode := by
  have hdec : ∀ i dontCare, decodeBytes [(encodeWith i dontCare).setWidth 8] = .ok i := fun i dontCare => by
    rw [decodeBytes_selector, decodeSelector_encodeWith]
  exact ⟨hdec, fun i => hdec i 0#7, fun b h7 => if_pos h7⟩

/-- Settles O23: the nine words, each evaluated. -/
theorem selectorWordsDecode : Obligations.SelectorWordsDecode :=
  ⟨rfl, rfl, rfl, rfl, rfl, rfl, rfl, rfl, rfl⟩

/-! ### A state made for a selector word -/

/-- `withDue` writes `elapsed` only. -/
theorem withDue_eq (s : State) (want : Level) : s.withDue want = { s with elapsed := (s.withDue want).elapsed } := by
  unfold State.withDue
  split
  · rfl
  · split <;> rfl

/-- `withDue` makes `due` what is wanted, but for a threshold of 1, where every step is due. -/
theorem due_withDue {s : State} {T : Nat} (hT : s.threshold = some T) (h1 : 1 ≤ T) (want : Level) :
    (s.withDue want).due = (want || decide (T = 1)) := by
  have hset : ∀ e, ({ s with elapsed := e } : State).due = decide (T ≤ e + 1) := fun e => by
    rw [State.due, show ({ s with elapsed := e } : State).threshold = some T from hT]
  simp only [State.withDue, hT]
  split
  case isTrue h =>
    rw [h]
    cases want
    · have hlt : ¬ T ≤ s.elapsed + 1 := by rw [← due_iff hT, h]; exact Bool.false_ne_true
      rw [Bool.false_or, decide_eq_false (by omega)]
    · rfl
  case isFalse =>
    cases want
    · rw [if_neg Bool.false_ne_true, hset, Bool.false_or, decide_eq_decide]
      omega
    · rw [if_pos rfl, hset]
      exact decide_eq_true (by omega)

/-- A selector is made of the fields that `withSelector` takes from it. -/
theorem selector_of_fields (sel : Selector) :
    BitVec.ofBool (sel.getLsbD 6) ++ (FsmState.ofCode (sel.extractLsb' 3 3)).code ++ BitVec.ofBool (sel.getLsbD 2) ++
      BitVec.ofBool (sel.getLsbD 1) ++ BitVec.ofBool (sel.getLsbD 0) = sel := by
  rw [FsmState.code_ofCode]
  revert sel
  decide

/-- The state of `withSelector` before `due` is seen to: the word's state code and input levels. -/
def State.withFields (s : State) (sel : Selector) : State :=
  { s with
    state := FsmState.ofCode (sel.extractLsb' 3 3)
    inputs := { rst := sel.getLsbD 6, rx := sel.getLsbD 1, frameAck := sel.getLsbD 0 } :: s.inputs.tail }

theorem withSelector_eq (s : State) (sel : Selector) :
    s.withSelector sel = { s.withFields sel with elapsed := (s.withSelector sel).elapsed } :=
  withDue_eq (s.withFields sel) (sel.getLsbD 2)

theorem withSelector_state (s : State) (sel : Selector) :
    (s.withSelector sel).state = FsmState.ofCode (sel.extractLsb' 3 3) := by
  rw [withSelector_eq]
  rfl

theorem withSelector_pins (s : State) (sel : Selector) :
    (s.withSelector sel).pins = { rst := sel.getLsbD 6, rx := sel.getLsbD 1, frameAck := sel.getLsbD 0 } := by
  rw [withSelector_eq]
  rfl

theorem withSelector_due_start {s : State} {sel : Selector} (hw : s.cfg.WellFormed)
    (hq : (s.withFields sel).state = .start) :
    (s.withSelector sel).due = (sel.getLsbD 2 || decide (s.cfg.ticksPerHalfBit = 1)) := by
  obtain ⟨-, -, -, -, -, -, hH⟩ := (wellFormed_iff _).1 hw
  exact due_withDue (threshold_start hq) hH _

/-- With `P ≥ 2` the word's `due` bit is kept. -/
theorem withSelector_due_of_ticksPerBit {s : State} {sel : Selector} (hw : s.cfg.WellFormed)
    (hT : (s.withFields sel).threshold = some s.cfg.ticksPerBit) : (s.withSelector sel).due = sel.getLsbD 2 := by
  obtain ⟨-, -, -, -, -, -, hH⟩ := (wellFormed_iff _).1 hw
  have hP : 2 ≤ s.cfg.ticksPerBit := (one_le_ticksPerHalfBit_iff _).1 hH
  have hdue : (s.withSelector sel).due = (sel.getLsbD 2 || decide (s.cfg.ticksPerBit = 1)) :=
    due_withDue hT (by omega) _
  rw [hdue, decide_eq_false (by omega), Bool.or_false]

/-- The operation of the state made for a selector word. -/
theorem fetch_withSelector {s : State} (hw : s.cfg.WellFormed) (sel : Selector) :
    (s.withSelector sel).fetch =
      if decodeSelector sel = .startWait ∧ s.cfg.ticksPerHalfBit = 1 then .startSample else decodeSelector sel := by
  have hdec := selector_fields (sel.getLsbD 6) (sel.getLsbD 2) (sel.getLsbD 1) (sel.getLsbD 0)
    (FsmState.ofCode (sel.extractLsb' 3 3))
  rw [selector_of_fields] at hdec
  rw [fetch_eq, withSelector_pins, withSelector_state, hdec]
  cases sel.getLsbD 6
  case true => simp
  case false =>
    cases hq : FsmState.ofCode (sel.extractLsb' 3 3)
    case idle => cases sel.getLsbD 1 <;> simp
    case start =>
      rw [withSelector_due_start hw hq]
      cases sel.getLsbD 2 <;> simp
    case data | parity | stop =>
      have hT : (s.withFields sel).threshold = some s.cfg.ticksPerBit := by
        rw [State.threshold, show (s.withFields sel).state = _ from hq]
        rfl
      rw [withSelector_due_of_ticksPerBit hw hT]
      cases sel.getLsbD 2 <;> simp
    case complete => cases sel.getLsbD 0 <;> simp
    case reserved6 | reserved7 => simp

/-- A selector word of 7 bits is one byte, which the decoder reads as its selector. -/
theorem decodeTableWord_selector {w : Nat} (hw : w < 128) :
    decodeTableWord 8 w = some (decodeSelector (BitVec.ofNat 7 w)) := by
  have hbyte : wordBytes 8 w = [(BitVec.ofNat 7 w).setWidth 8] := by
    refine congrArg (fun b => [b]) (BitVec.eq_of_toNat_eq ?_)
    simp only [BitVec.toNat_ofNat, BitVec.toNat_setWidth]
    omega
  rw [decodeTableWord, hbyte, decodeBytes_selector]

/-- Settles O25: `withFetchWord` is `withSelector` of the word that the byte holds, whose operation and frame are known. -/
theorem fetchWordSelectsItsRow : Obligations.FetchWordSelectsItsRow := by
  intro s w hwf hw
  have hword : s.withFetchWord 8 w = s.withSelector (BitVec.ofNat 7 w) := by
    rw [State.withFetchWord, Nat.mod_eq_of_lt (by omega)]
  rw [hword]
  refine ⟨⟨_, decodeTableWord_selector hw, fetch_withSelector hwf _⟩, ?_, ?_⟩
  · rw [withSelector_eq]
    rfl
  · rw [withSelector_eq]
    rfl

/-! ### The build interface -/

theorem parityModeOf_eq_some_iff (code : BitVec 2) (pm : ParityMode) :
    parityModeOf code = some pm ↔ parityModeCode pm = code := by
  cases pm <;> revert code <;> decide

theorem parityModeCode_ne_reserved (pm : ParityMode) : parityModeCode pm ≠ 0b11#2 := by cases pm <;> decide

/-- Every code but the reserved one is a mode's. -/
theorem exists_parityModeCode {code : BitVec 2} (h : code ≠ 0b11#2) : ∃ pm, parityModeCode pm = code := by
  have hsome : (parityModeOf code).isSome := by
    revert code
    decide
  obtain ⟨pm, hpm⟩ := Option.isSome_iff_exists.1 hsome
  exact ⟨pm, (parityModeOf_eq_some_iff _ _).1 hpm⟩

theorem configOf_constantsOf {c : Config} (hw : c.WellFormed) : configOf (constantsOf c) = some c := by
  have hpm : parityModeOf (constantsOf c).parityMode = some c.parityMode := (parityModeOf_eq_some_iff _ _).2 rfl
  rw [configOf, hpm]
  exact if_pos hw

/-- Constants are read only as the well-formed configuration whose constants they are. -/
theorem constantsOf_of_configOf {b : BuildConstants} {c : Config} (h : configOf b = some c) :
    constantsOf c = b ∧ c.WellFormed := by
  unfold configOf at h
  split at h
  case h_1 => cases h
  case h_2 pm hpm =>
    obtain ⟨hw, hc⟩ := Option.ite_none_right_eq_some.1 h
    cases hc
    exact ⟨by rw [constantsOf, (parityModeOf_eq_some_iff _ _).1 hpm], hw⟩

/-- Settles O27, from both directions of reading a configuration. -/
theorem buildConstantsRoundTrip : Obligations.BuildConstantsRoundTrip :=
  ⟨fun _ => configOf_constantsOf, fun _ _ => constantsOf_of_configOf, rfl, rfl, rfl, rfl⟩

/-- A set of build constants with a reserved value (30_encoding.md R98). -/
def ReservedConstants (b : BuildConstants) : Prop :=
  b.parityMode = 0b11#2 ∨ b.dataBits = 0 ∨ 32 < b.dataBits ∨ b.stopBits = 0 ∨ b.baud = 0 ∨ b.tickHz = 0 ∨
    b.tickHz < 2 * b.baud

/-- A configuration is well formed exactly when none of its constants is reserved. -/
theorem wellFormed_iff_not_reserved (c : Config) : c.WellFormed ↔ ¬ ReservedConstants (constantsOf c) := by
  have hpm : (constantsOf c).parityMode ≠ 0b11#2 := parityModeCode_ne_reserved _
  rw [wellFormedMeansTwoTicksPerBit c, ReservedConstants, or_iff_right hpm]
  simp only [constantsOf]
  omega

theorem exists_constantsOf {b : BuildConstants} (h : ¬ ReservedConstants b) : ∃ c, constantsOf c = b := by
  obtain ⟨pm, hpm⟩ := exists_parityModeCode (mt .inl h)
  exact ⟨⟨b.tickHz, b.baud, b.dataBits, pm, b.stopBits⟩, by rw [constantsOf, hpm]⟩

theorem configOf_of_reserved {b : BuildConstants} (h : ReservedConstants b) : configOf b = none := by
  rw [Option.eq_none_iff_forall_ne_some]
  intro c hc
  obtain ⟨rfl, hw⟩ := constantsOf_of_configOf hc
  exact (wellFormed_iff_not_reserved c).1 hw h

/-- Settles O15: reserved constants are no configuration's, and the others are those of a well-formed one. -/
theorem illFormedConfigurationRefused : Obligations.IllFormedConfigurationRefused := by
  refine ⟨fun s hw => if_neg hw, fun b => ⟨fun h => ?_, fun h => ?_⟩⟩
  · rw [build, configOf_of_reserved h]
  · obtain ⟨c, rfl⟩ := exists_constantsOf h
    have hw := (wellFormed_iff_not_reserved c).2 h
    exact ⟨c, rfl, hw, by rw [build, configOf_constantsOf hw]⟩

/-! ### The operations that a run can select -/

/-- From a state inside the invariant a step's operation is one that a block of this configuration can come to. -/
theorem fetch_wellFormed {s : State} (h : s.Inv) : s.fetch.wellFormed s.cfg = true := by
  rw [fetch_eq]
  cases s.pins.rst
  case true => rfl
  case false =>
    cases hq : s.state
    case idle => cases s.pins.rx <;> rfl
    case start =>
      cases hd : s.due
      · have hlt : ¬ s.cfg.ticksPerHalfBit ≤ s.elapsed + 1 := by
          rw [← due_iff (threshold_start hq), hd]
          exact Bool.false_ne_true
        exact decide_eq_true (by omega)
      · rfl
    case data | stop => cases s.due <;> rfl
    case parity =>
      obtain ⟨-, -, hpm, -⟩ := (rowHolds_parity hq).1 h.row
      cases s.due <;> exact decide_eq_true hpm
    case complete => cases s.pins.frameAck <;> rfl
    case reserved6 => exact absurd (.inl hq) (not_reserved_of_rowHolds h.row)
    case reserved7 => exact absurd (.inr hq) (not_reserved_of_rowHolds h.row)

/-- Settles O31: `Instr.wellFormed` of the row in question is the claim about it. -/
theorem selectedOperationIsAdmissible : Obligations.SelectedOperationIsAdmissible := by
  intro s hinv
  have h := fetch_wellFormed hinv
  refine ⟨fun hf => ?_, ?_, fun hf => ?_⟩
  · rw [hf] at h
    cases h
  · rintro (hf | hf) <;> rw [hf] at h <;> exact of_decide_eq_true h
  · rw [hf] at h
    exact of_decide_eq_true h

/-! ### The consumers of a test program -/

/-- The consecutive step in COMPLETE that this one is, and with which a delayed consumer compares. -/
theorem completeStep_eq_succ_iff (s : State) (before a : Nat) :
    s.completeStep before = a + 1 ↔ s.state = .complete ∧ before = a := by
  by_cases hq : s.state = .complete <;> simp [hq]

/-- One tick of the closed loop. -/
theorem runLoop_singleton {k : Consumer} {l : Level} {before : Nat} {s t : State}
    (h : step { s with inputs := [{ rst := false, rx := l, frameAck := k.ack (s.completeStep before) }] } = .next t) :
    runLoop k [l] before s = .next (t, ({ s with
      inputs := [{ rst := false, rx := l, frameAck := k.ack (s.completeStep before) }] } : State).handover.toList) := by
  simp [runLoop, h]

/-- Settles O51, consumer by consumer, and for one tick of the loop. -/
theorem consumerAcknowledges : Obligations.ConsumerAcknowledges := by
  intro s before a
  refine ⟨Consumer.ack_auto _, Consumer.ack_never _, ?_, fun k l t => runLoop_singleton⟩
  rw [Consumer.ack_delay, decide_eq_true_iff]
  exact completeStep_eq_succ_iff s before a

end Sys2Proof.Machine

/-! The bit timing (40_bit_timing.md): the truncated quotients (R120, R121), the due test with the operation it chooses (R125 to
R129), the schedule of a frame (R130), and where a sample falls in its slot (R131). -/

namespace Sys2Proof.Machine

/-! ### The timing constants -/

/-- Settles O17: the remainder of a division is at least 0 and below the divisor. -/
theorem timingConstantsAreTruncatedQuotients : Obligations.TimingConstantsAreTruncatedQuotients := by
  intro c hB
  have hP : c.tickHz < (c.ticksPerBit + 1) * c.baud := (Nat.div_lt_iff_lt_mul hB).1 (Nat.lt_succ_self c.ticksPerBit)
  have hH : c.ticksPerHalfBit = c.ticksPerBit / 2 := rfl
  exact ⟨⟨Nat.div_mul_le_self _ _, hP⟩, by omega, by omega⟩

/-! ### The due test and the operation it chooses -/

/-- Below its threshold a timed state is due on the last tick only. -/
theorem due_iff_of_lt {s : State} {T : Nat} (hT : s.threshold = some T) (he : s.elapsed < T) :
    s.due = true ↔ s.elapsed = T - 1 := by
  rw [due_iff hT]
  omega

theorem fetch_start {s : State} (hr : s.pins.rst = false) (hq : s.state = .start) :
    s.fetch = if s.due then .startSample else .startWait := by
  rw [fetch_eq, hr, hq]
  rfl

theorem fetch_data {s : State} (hr : s.pins.rst = false) (hq : s.state = .data) :
    s.fetch = if s.due then .dataSample else .dataWait := by
  rw [fetch_eq, hr, hq]
  rfl

theorem fetch_parity {s : State} (hr : s.pins.rst = false) (hq : s.state = .parity) :
    s.fetch = if s.due then .paritySample else .parityWait := by
  rw [fetch_eq, hr, hq]
  rfl

theorem fetch_stop {s : State} (hr : s.pins.rst = false) (hq : s.state = .stop) :
    s.fetch = if s.due then .stopSample else .stopWait := by
  rw [fetch_eq, hr, hq]
  rfl

theorem threshold_of_ticksPerBit {s : State} (hq : s.state = .data ∨ s.state = .parity ∨ s.state = .stop) :
    s.threshold = some s.cfg.ticksPerBit := by
  rcases hq with hq | hq | hq
  · exact threshold_data hq
  · exact threshold_parity hq
  · exact threshold_stop hq

/-- Settles O22: the selector's bit, `due_iff` with each threshold, and each timed state's choice. -/
theorem dueComparesElapsedWithThreshold : Obligations.DueComparesElapsedWithThreshold := by
  intro s
  refine ⟨?_, fun hq => ?_, fun hq => ?_, fun hr => ⟨fetch_start hr, fetch_data hr, fetch_parity hr, fetch_stop hr⟩⟩
  · obtain ⟨-, -, hdue, -⟩ := selector_bits s.pins.rst s.due s.pins.rx s.pins.frameAck s.state.code
    exact hdue
  · exact ⟨due_iff (threshold_start hq), due_iff_of_lt (threshold_start hq)⟩
  · exact ⟨due_iff (threshold_of_ticksPerBit hq), due_iff_of_lt (threshold_of_ticksPerBit hq)⟩

/-! ### The wait operations -/

/-- A count that stays below `P` does not wrap in `W_E` bits (10_state.md R34). -/
theorem countTick_of_lt {s : State} (h : s.elapsed + 1 < s.cfg.ticksPerBit) :
    s.countTick = { s with elapsed := s.elapsed + 1 } := by
  rw [State.countTick, cutTo_of_lt (h.trans_le (ticksPerBit_le_elapsed _))]

/-- A timed state's step below its threshold `T ≤ P` is the state's wait, which only counts. -/
theorem wait_of_lt {s : State} {T : Nat} {sample wait : Instr} (hT : s.threshold = some T) (hP : T ≤ s.cfg.ticksPerBit)
    (hf : s.fetch = if s.due then sample else wait) (hw : exec wait s = .next s.countTick) (h : s.elapsed + 1 < T) :
    s.fetch = wait ∧ exec wait s = .next { s with elapsed := s.elapsed + 1 } := by
  have hdue : ¬ s.due = true := by rw [due_iff hT]; omega
  exact ⟨hf.trans (if_neg hdue), hw.trans (by rw [countTick_of_lt (h.trans_le hP)])⟩

/-- Settles O4: `wait_of_lt` in each of the four timed states. -/
theorem waitStepsCountOneTick : Obligations.WaitStepsCountOneTick := fun _ hr =>
  ⟨fun hq => wait_of_lt (threshold_start hq) (ticksPerHalfBit_le _) (fetch_start hr hq) rfl,
    fun hq => wait_of_lt (threshold_data hq) le_rfl (fetch_data hr hq) rfl,
    fun hq => wait_of_lt (threshold_parity hq) le_rfl (fetch_parity hr hq) rfl,
    fun hq => wait_of_lt (threshold_stop hq) le_rfl (fetch_stop hr hq) rfl⟩

/-! ### The schedule of a frame -/

theorem sampleTick_lt_completeTick {c : Config} {k : Nat} (hk : k < c.totalBits) : c.sampleTick k < c.completeTick := by
  have hmono := Nat.mul_le_mul_right c.ticksPerBit (Nat.le_sub_one_of_lt hk)
  rw [Config.completeTick, Config.sampleTick, Config.sampleTick]
  omega

/-- A step in slot `k` of a frame is the slot's sample when it is due, and the slot's wait otherwise. -/
theorem fetch_slotState {c : Config} {k : Nat} {t : State} (hs : t.state = slotState c k) (hk : k < c.totalBits)
    (hr : t.pins.rst = false) : t.fetch = if t.due then slotOperation c k else slotWait c k := by
  unfold slotState at hs
  split_ifs at hs with h0 hD hpar
  · simpa only [slotOperation, slotWait, if_pos h0] using fetch_start hr hs
  · simpa only [slotOperation, slotWait, if_neg h0, if_pos hD] using fetch_data hr hs
  · simpa only [slotOperation, slotWait, if_neg h0, if_neg hD, if_pos hpar] using fetch_parity hr hs
  · simpa only [slotOperation, slotWait, if_neg h0, if_neg hD, if_neg hpar] using fetch_stop hr hs

theorem slotState_ne_complete {c : Config} {k : Nat} (hk : k < c.totalBits) : slotState c k ≠ .complete := by
  unfold slotState
  split_ifs <;> decide

theorem slotEntry_pos (c : Config) (k : Nat) : 1 ≤ slotEntry c k := by
  unfold slotEntry
  split_ifs <;> omega

/-- A tick after the detection and after the samples of the slots before `k` is no earlier than the first step of slot `k`. -/
theorem slotEntry_le {c : Config} {n k : Nat} (hn : 1 ≤ n) (hk : k = 0 ∨ c.sampleTick (k - 1) < n) : slotEntry c k ≤ n := by
  unfold slotEntry
  split_ifs <;> omega

/-- The step on tick `n` of slot `k`: it waits for the slot's sample, and is the sample on tick `H + k·P`. -/
theorem SlotEntry.fetch_at {s0 t : State} {n k : Nat} (h : SlotEntry s0 k t) (hw : s0.cfg.WellFormed)
    (hk : k < s0.cfg.totalBits) (hr : ∀ m, m < s0.cfg.completeTick → (s0.inputAt m).rst = false)
    (hn : slotEntry s0.cfg k ≤ n) (hle : n ≤ s0.cfg.sampleTick k) :
    ∃ t', Prog s0 n t' ∧ t'.state = slotState s0.cfg k ∧
      t'.fetch = if n = s0.cfg.sampleTick k then slotOperation s0.cfg k else slotWait s0.cfg k := by
  have hpos := slotEntry_pos s0.cfg k
  have hlast := slotEntry_threshold s0.cfg k hw
  obtain ⟨t', hp, hst, he, -⟩ := wait_slot hw h hk hr (n - slotEntry s0.cfg k) (by omega)
  rw [Nat.add_sub_cancel' hn] at hp
  have hstate := hst.trans h.state
  have hrst : t'.pins.rst = false :=
    (congrArg Pins.rst (hp.inp 0)).trans (hr n (hle.trans_lt (sampleTick_lt_completeTick hk)))
  have hdue : t'.due = true ↔ n = s0.cfg.sampleTick k := by
    rw [due_iff (threshold_slotState hstate hp.cfg hk), he]
    omega
  exact ⟨t', hp, hstate, by simp only [fetch_slotState hstate hk hrst, hdue]⟩

/-- Settles O41: the slots of the frame are entered one after another, and in each `SlotEntry.fetch_at` gives the operation of
every tick. -/
theorem slotsAreSampledOnSchedule : Obligations.SlotsAreSampledOnSchedule := by
  intro s hw hq hx hr
  obtain ⟨t, hrun, -, hcomplete, -⟩ := frameIsDecodedFromItsSamples s hw hq hx hr
  have hrst : s.pins.rst = false := hr 0 (Nat.succ_pos _)
  have hrx : s.pins.rx = false := hx
  refine ⟨by rw [fetch_eq, hrst, hq, hrx]; rfl, by rw [hq]; decide, ⟨t, hrun, hcomplete⟩, ?_⟩
  intro n k hn hk hprev hle
  obtain ⟨t₀, h₀⟩ := exists_slotEntry hw hq hx hr hk.le
  obtain ⟨t', hp, hst, hf⟩ := h₀.fetch_at hw hk hr (slotEntry_le hn hprev) hle
  exact ⟨t', hp.run, hp.inp 0, hst ▸ slotState_ne_complete hk, hf⟩

/-! ### Where a sample falls in its slot -/

/-- `δ_k` is the distance from the start of slot `k` on the line to the tick that samples it. -/
theorem sampleOffset_eq (c : Config) (slot edge : ℚ) (n0 k : Nat) :
    c.sampleOffset slot ((n0 : ℚ) - edge) k = ((n0 + c.sampleTick k : Nat) : ℚ) - (edge + k * slot) := by
  rw [Config.sampleOffset, Config.sampleTick]
  push_cast
  ring

theorem ticksPerBit_le_slotLength (c : Config) : (c.ticksPerBit : ℚ) ≤ c.slotLength := Nat.cast_div_le

/-- The drift `k·(T − P)` of slot `k` is at most that of the frame's last slot. -/
theorem drift_le {c : Config} {k : Nat} (hk : k < c.totalBits) :
    (k : ℚ) * (c.slotLength - c.ticksPerBit) ≤ ((c.totalBits : ℚ) - 1) * (c.slotLength - c.ticksPerBit) := by
  have hk' : (k : ℚ) + 1 ≤ c.totalBits := by exact_mod_cast hk
  exact mul_le_mul_of_nonneg_right (by linarith) (sub_nonneg.2 (ticksPerBit_le_slotLength c))

/-- Settles O49: the slot's two bounds, each less the slot's start, are those on `δ_k`; within a frame the drift is at most `H`, and
`H + 1 ≤ P ≤ T`. -/
theorem sampleMargin : Obligations.SampleMargin := by
  constructor
  · intro c slot edge n0 k
    rw [sampleOffset_eq, sub_nonneg, sub_lt_iff_lt_add', add_assoc, ← add_one_mul]
  · intro c late k hw h0 h1 hk hmargin
    have hdrift := drift_le hk
    have hdrift0 : 0 ≤ (k : ℚ) * (c.slotLength - c.ticksPerBit) :=
      mul_nonneg (Nat.cast_nonneg k) (sub_nonneg.2 (ticksPerBit_le_slotLength c))
    have hT := ticksPerBit_le_slotLength c
    have hH : (c.ticksPerHalfBit : ℚ) + 1 ≤ c.ticksPerBit := by exact_mod_cast ticksPerHalfBit_lt hw
    rw [Config.sampleOffset]
    constructor <;> linarith

end Sys2Proof.Machine

/-! The frame decoder (41_frame_decoder.md): IDLE (R140, R141), a due START step (R145), and a due DATA step (R150). -/

namespace Sys2Proof.Machine

/-! ### IDLE -/

theorem fetch_idle {s : State} (hr : s.pins.rst = false) (hq : s.state = .idle) :
    s.fetch = if s.lineRead then .idleHold else .idleDetect := by
  rw [fetch_eq, hr, hq]
  rfl

theorem frameValid_of_ne_complete {s : State} (hq : s.state ≠ .complete) : s.frameValid = false :=
  Bool.eq_false_iff.2 (mt (frameValid_iff s).1 hq)

/-- Settles O2: the operation of IDLE with the line high answers the state it is given, which is not COMPLETE. -/
theorem idleHoldWritesNothing : Obligations.IdleHoldWritesNothing := by
  intro s hr hq hx
  have hne : s.state ≠ .complete := by rw [hq]; decide
  exact ⟨(fetch_idle hr hq).trans (if_pos hx), rfl, frameValid_of_ne_complete hne⟩

/-- Settles O3: `Restart()`, the frame's clearing and the move to START write the fields of the statement. -/
theorem idleDetectStartsFreshFrame : Obligations.IdleDetectStartsFreshFrame := by
  intro s hr hq hx
  exact ⟨(fetch_idle hr hq).trans (if_neg (ne_true_of_eq_false hx)), rfl⟩

/-! ### A due step -/

/-- A timed state's step from its threshold on is the state's sample. -/
theorem fetch_of_due {s : State} {T : Nat} {sample wait : Instr} (hT : s.threshold = some T)
    (hf : s.fetch = if s.due then sample else wait) (h : T ≤ s.elapsed + 1) : s.fetch = sample :=
  hf.trans (if_pos ((due_iff hT).2 h))

theorem setBitIdx_zero (s : State) : s.setBitIdx 0 = { s with bitIdx := 0 } := by
  rw [State.setBitIdx, cutTo_zero]

/-- The index of a data bit does not wrap in `W_I` bits (10_state.md R35). -/
theorem setBitIdx_of_lt_dataBits {s : State} {n : Nat} (h : n < s.cfg.dataBits) : s.setBitIdx n = { s with bitIdx := n } := by
  rw [State.setBitIdx, cutTo_of_lt (h.trans_le (dataBits_le_bitIdx _))]

/-! ### START_SAMPLE -/

/-- The start bit's error flag is the line's level: 0 for a low line, 1 for a high one (41_frame_decoder.md R145). -/
theorem startErrOf_eq (b : Level) : startErrOf b = if b = false then false else true := by cases b <;> rfl

/-- Settles O5: a due START step is START_SAMPLE, and its four writes are the statement's. -/
theorem startSampleRecordsStartBit : Obligations.StartSampleRecordsStartBit := by
  intro s hr hq he
  refine ⟨fetch_of_due (threshold_start hq) (fetch_start hr hq) he, ?_⟩
  rw [exec, execStartSample, setBitIdx_zero, startErrOf_eq]
  rfl

/-! ### DATA_SAMPLE -/

theorem exec_dataSample_last {s : State} (hi : s.bitIdx = s.cfg.dataBits - 1) :
    exec .dataSample s = .next ((s.sampleData.setBitIdx 0).goTo (afterData s.cfg.parityMode)) := if_pos hi

theorem exec_dataSample_next {s : State} (hi : s.bitIdx ≠ s.cfg.dataBits - 1) :
    exec .dataSample s = .next (s.sampleData.setBitIdx (s.bitIdx + 1)) := if_neg hi

theorem afterData_eq (pm : ParityMode) : afterData pm = if pm ≠ .none then .parity else .stop := by cases pm <;> rfl

/-- Where a sample of data bit `bitIdx` goes on: to the next bit, or after the last one to PARITY or STOP. -/
theorem exec_dataSample {s : State} (hq : s.state = .data) (hlt : s.bitIdx < s.cfg.dataBits) :
    exec .dataSample s = .next { s.sampleData with
      bitIdx := if s.bitIdx = s.cfg.dataBits - 1 then 0 else s.bitIdx + 1,
      state := if s.bitIdx = s.cfg.dataBits - 1 then (if s.cfg.parityMode ≠ .none then .parity else .stop) else .data } := by
  by_cases hi : s.bitIdx = s.cfg.dataBits - 1
  · rw [exec_dataSample_last hi, setBitIdx_zero, afterData_eq, if_pos hi, if_pos hi]
    rfl
  · have hnext : s.bitIdx + 1 < s.sampleData.cfg.dataBits := by
      change s.bitIdx + 1 < s.cfg.dataBits
      omega
    rw [exec_dataSample_next hi, setBitIdx_of_lt_dataBits hnext, if_neg hi, if_neg hi, ← hq]
    rfl

/-- A count in its range takes one more bit without a wrap in 6 bits (10_state.md R37). -/
theorem countOne_toNat {s : State} (b : Level) (h : s.ones.toNat ≤ 32) :
    (s.countOne b).ones.toNat = s.ones.toNat + if b then 1 else 0 := by
  rw [State.countOne_ones, BitVec.toNat_add]
  cases b <;> simp <;> omega

/-- Settles O6: a due DATA step is DATA_SAMPLE; `getLsbD_setBit` gives the data bits and `countOne_toNat` the
count. -/
theorem dataSampleWritesBitAndCounts : Obligations.DataSampleWritesBitAndCounts := by
  intro s _ hr hq he hlt hones
  exact ⟨fetch_of_due (threshold_data hq) (fetch_data hr hq) he, s.sampleData.data, s.sampleData.ones,
    exec_dataSample hq hlt, fun k hk => getLsbD_setBit s.data s.bitIdx k s.lineRead hk, countOne_toNat s.lineRead hones⟩

end Sys2Proof.Machine

/-! The parity checker (42_parity_checker.md): a due PARITY step (R170), with the level that it expects (R171). -/

namespace Sys2Proof.Machine

/-- The four writes of PARITY_SAMPLE, whatever the parity mode (42_parity_checker.md R170). -/
theorem exec_paritySample (s : State) :
    exec .paritySample s = .next { s with
      parityErr := parityErrOf s.lineRead (expectedParity s.cfg.parityMode s.ones s.draws),
      elapsed := 0, bitIdx := 0, state := .stop } := by
  rw [exec, execParitySample, setBitIdx_zero]
  rfl

theorem fetch_paritySample {s : State} (hr : s.pins.rst = false) (hq : s.state = .parity)
    (he : s.cfg.ticksPerBit ≤ s.elapsed + 1) : s.fetch = .paritySample :=
  fetch_of_due (threshold_parity hq) (fetch_parity hr hq) he

/-- The expected level as a number: the count's remainder by 2 under Even, its complement under Odd (42_parity_checker.md R171). -/
theorem expectedParity_toNat {pm : ParityMode} (hpm : pm ≠ .none) (ones : OnesCount) (draw : Nat) :
    (expectedParity pm ones draw).toNat = if pm = .even then ones.toNat % 2 else 1 - ones.toNat % 2 := by
  cases pm with
  | none => exact absurd rfl hpm
  | even | odd => rcases Nat.mod_two_eq_zero_or_one ones.toNat with h | h <;> simp [expectedParity, h]

/-- The parity flag is 1 exactly when the two levels differ as numbers. -/
theorem parityErrOf_eq (b expected : Level) : parityErrOf b expected = decide ((if b then 1 else 0) ≠ expected.toNat) := by
  cases b <;> cases expected <;> rfl

/-- Settles O7: a due PARITY step is PARITY_SAMPLE, and its flag compares the line with `expectedParity_toNat`. -/
theorem paritySampleChecksParity : Obligations.ParitySampleChecksParity := by
  intro s hr hq he hpm
  refine ⟨fetch_paritySample hr hq he, ?_⟩
  rw [exec_paritySample, parityErrOf_eq, expectedParity_toNat hpm]

/-- Settles O8: the writes of PARITY_SAMPLE are those of every parity mode; under `PM = None` the flag compares the line with a free level. -/
theorem paritySampleRunsWithoutParityMode : Obligations.ParitySampleRunsWithoutParityMode :=
  fun s hr hq he _ => ⟨fetch_paritySample hr hq he, _, exec_paritySample s⟩

end Sys2Proof.Machine

/-! The stop validator and the frame's completion (43_stop_validator.md): a due STOP step (R190), COMPLETE without and with an
acknowledgement (R195, R196), and the frames of a line held at 0 (R198). -/

namespace Sys2Proof.Machine

/-! ### STOP_SAMPLE -/

/-- The index of a stop bit does not wrap in `W_I` bits (10_state.md R35). -/
theorem setBitIdx_of_lt_stopBits {s : State} {n : Nat} (h : n < s.cfg.stopBits) : s.setBitIdx n = { s with bitIdx := n } := by
  rw [State.setBitIdx, cutTo_of_lt (h.trans_le (stopBits_le_bitIdx _))]

theorem exec_stopSample_last {s : State} (hi : s.bitIdx = s.cfg.stopBits - 1) :
    exec .stopSample s = .next ((s.sampleStop.setBitIdx 0).goTo .complete) := if_pos hi

theorem exec_stopSample_next {s : State} (hi : s.bitIdx ≠ s.cfg.stopBits - 1) :
    exec .stopSample s = .next (s.sampleStop.setBitIdx (s.bitIdx + 1)) := if_neg hi

/-- Where a sample of stop bit `bitIdx` goes on: to the next bit, or after the last one to COMPLETE. -/
theorem exec_stopSample {s : State} (hq : s.state = .stop) (hlt : s.bitIdx < s.cfg.stopBits) :
    exec .stopSample s = .next { s.sampleStop with
      bitIdx := if s.bitIdx = s.cfg.stopBits - 1 then 0 else s.bitIdx + 1,
      state := if s.bitIdx = s.cfg.stopBits - 1 then .complete else .stop } := by
  by_cases hi : s.bitIdx = s.cfg.stopBits - 1
  · rw [exec_stopSample_last hi, setBitIdx_zero, if_pos hi, if_pos hi]
    rfl
  · have hnext : s.bitIdx + 1 < s.sampleStop.cfg.stopBits := by
      change s.bitIdx + 1 < s.cfg.stopBits
      omega
    rw [exec_stopSample_next hi, setBitIdx_of_lt_stopBits hnext, if_neg hi, if_neg hi, ← hq]
    rfl

/-- A STOP_SAMPLE's `stopErr`, entry by entry (43_stop_validator.md R190). -/
theorem sampleStop_stopErr_getElem? (s : State) {k : Nat} (hk : k < s.stopErr.length) :
    s.sampleStop.stopErr[k]? = if k = s.bitIdx then some (!s.lineRead) else s.stopErr[k]? := by
  change (s.stopErr.set s.bitIdx (stopErrOf s.lineRead))[k]? = _
  by_cases h : k = s.bitIdx
  · rw [if_pos h, ← h, List.getElem?_set_self hk]
    rfl
  · rw [if_neg h, List.getElem?_set_ne (Ne.symm h)]

/-- Settles O9: a due STOP step is STOP_SAMPLE; it sets one entry of `stopErr`, which keeps its length. -/
theorem stopSampleRecordsStopBit : Obligations.StopSampleRecordsStopBit := by
  intro s _ hr hq he hlt hlen
  exact ⟨fetch_of_due (threshold_stop hq) (fetch_stop hr hq) he, s.sampleStop.stopErr, exec_stopSample hq hlt,
    List.length_set.trans hlen, fun k hk => sampleStop_stopErr_getElem? s (hlen ▸ hk)⟩

/-! ### COMPLETE -/

theorem fetch_complete {s : State} (hr : s.pins.rst = false) (hq : s.state = .complete) :
    s.fetch = if s.pins.frameAck then .completeRelease else .completeHold := by
  rw [fetch_eq, hr, hq]
  rfl

theorem handover_of_release {s : State} (h : s.fetch = .completeRelease) :
    s.handover = some { frame := s.frameRegisters, tick := s.tick } := if_pos h

theorem handover_of_ne_release {s : State} (h : s.fetch ≠ .completeRelease) : s.handover = none := if_neg h

/-- Settles O10: the operation is COMPLETE_HOLD, which hands nothing over, and in COMPLETE the frame is presented. -/
theorem completeHoldWritesNothing : Obligations.CompleteHoldWritesNothing := by
  intro s hr hq ha
  have hf : s.fetch = .completeHold := (fetch_complete hr hq).trans (if_neg (ne_true_of_eq_false ha))
  exact ⟨hf, rfl, (frameValid_iff s).2 hq, presented_of_complete hq, handover_of_ne_release (by rw [hf]; decide)⟩

/-- Settles O11: the operation is COMPLETE_RELEASE, which hands the frame over; COMPLETE has a valid frame and IDLE none. -/
theorem completeReleaseReturnsToIdle : Obligations.CompleteReleaseReturnsToIdle := by
  intro s hr hq ha
  have hf : s.fetch = .completeRelease := (fetch_complete hr hq).trans (if_pos ha)
  exact ⟨hf, rfl, (frameValid_iff s).2 hq, rfl, handover_of_release hf⟩

/-! ### From a detection to the handover -/

/-- Only COMPLETE selects COMPLETE_RELEASE. -/
theorem fetch_ne_release {s : State} (hq : s.state ≠ .complete) : s.fetch ≠ .completeRelease := by
  rw [fetch_eq]
  cases s.pins.rst
  case true => simp
  case false =>
    cases hs : s.state
    case idle => cases s.pins.rx <;> simp
    case start | data | parity | stop => cases s.due <;> simp
    case complete => exact absurd hs hq
    case reserved6 | reserved7 => simp

/-- Outside COMPLETE a step hands nothing over. -/
theorem handover_of_ne_complete {s : State} (hq : s.state ≠ .complete) : s.handover = none :=
  handover_of_ne_release (fetch_ne_release hq)

/-- Every tick of a frame before its first COMPLETE step falls in a slot: from the sample of the slot before it to its own. -/
theorem exists_slot {c : Config} {n : Nat} (hn : n < c.completeTick) :
    ∃ k, k < c.totalBits ∧ (k = 0 ∨ c.sampleTick (k - 1) < n) ∧ n ≤ c.sampleTick k := by
  have hex : ∃ k, n ≤ c.sampleTick k := ⟨c.totalBits - 1, Nat.le_of_lt_succ hn⟩
  have hle : Nat.find hex ≤ c.totalBits - 1 := Nat.find_min' hex (Nat.le_of_lt_succ hn)
  have hN := totalBits_eq c
  refine ⟨Nat.find hex, by omega, ?_, Nat.find_spec hex⟩
  exact (Nat.eq_zero_or_pos _).imp_right fun hpos => Nat.lt_of_not_le (Nat.find_min hex (Nat.sub_one_lt_of_lt hpos))

/-- A frame hands nothing over before its first COMPLETE step. -/
theorem observe_until_complete {s : State} (hw : s.cfg.WellFormed) (hq : s.state = .idle) (hx : s.lineRead = false)
    (hr : ∀ n, n < s.cfg.completeTick → (s.inputAt n).rst = false) : observe s.cfg.completeTick s = [] := by
  obtain ⟨-, hidle, -, hslots⟩ := slotsAreSampledOnSchedule s hw hq hx hr
  refine observe_nil hw fun n hn => ?_
  obtain rfl | hpos := Nat.eq_zero_or_pos n
  · exact ⟨s, rfl, handover_of_ne_complete hidle⟩
  · obtain ⟨k, hk, hprev, hle⟩ := exists_slot hn
    obtain ⟨t, hrun, -, hne, -⟩ := hslots n k hpos hk hprev hle
    exact ⟨t, hrun, handover_of_ne_complete hne⟩

/-- A COMPLETE step that is acknowledged: the block is in IDLE after it, and has handed its frame over. -/
theorem run_release {t : State} (hw : t.cfg.WellFormed) (hr : t.pins.rst = false) (hq : t.state = .complete)
    (ha : t.pins.frameAck = true) : ∃ u, runFor 1 t = .next u ∧ u.state = .idle ∧
      observe 1 t = [{ frame := t.frameRegisters, tick := t.tick }] := by
  obtain ⟨hf, hex, -, -, hh⟩ := completeReleaseReturnsToIdle t hr hq ha
  have hstep := step_of_exec hw (hf ▸ hex)
  refine ⟨_, run_succ hstep, rfl, ?_⟩
  rw [observe_succ hstep, hh]
  rfl

/-! ### A line held at 0 -/

/-- The frame of a line held at 0 (43_stop_validator.md R198). -/
def breakFrame (c : Config) : Frame :=
  { data := 0#32, startErr := false, parityErr := decide (c.parityMode = .odd), stopErr := List.replicate c.stopBits true }

/-- Data 0 with a parity slot of 0 is a parity error under Odd only. -/
theorem parityOutcome_zero {c : Config} {L : Nat → Level} (hL : L (c.dataBits + 1) = false) :
    parityOutcome c L 0#32 = decide (c.parityMode = .odd) := by
  have h0 : popcount 0#32 = 0 := by decide
  cases hpm : c.parityMode <;> simp [parityOutcome, hpm, hL, h0]

/-- The frame that a line held at 0 is decoded to is `breakFrame`. -/
theorem run_lowFrame {s : State} (hw : s.cfg.WellFormed) (hq : s.state = .idle)
    (hin : ∀ n, n < s.cfg.completeTick → s.inputAt n = autoPins false) :
    ∃ t, runFor s.cfg.completeTick s = .next t ∧ t.state = .complete ∧ t.tick = s.tick + s.cfg.completeTick ∧
      t.frameRegisters = breakFrame s.cfg := by
  have hN := totalBits_eq s.cfg
  obtain ⟨-, -, -, -, hS, -⟩ := (wellFormed_iff _).1 hw
  have hL : ∀ k, k < s.cfg.totalBits → s.slotLevel k = false := fun k hk => by
    rw [State.slotLevel, hin _ (sampleTick_lt_completeTick hk)]
    rfl
  have hx : s.lineRead = false := congrArg Pins.rx (hin 0 (Nat.succ_pos _))
  obtain ⟨t, hrun, -, hst, -, -, htick, hdata, -, hstart, hpar, hstop⟩ :=
    frameIsDecodedFromItsSamples s hw hq hx fun n hn => congrArg Pins.rst (hin n hn)
  have hd : t.data = 0#32 := by
    apply BitVec.eq_of_toNat_eq
    rw [hdata, slotSum_bits 0 _ _ fun i hi => by rw [hL _ (by omega), Nat.zero_testBit]]
    exact Nat.zero_mod _
  have hp : t.parityErr = decide (s.cfg.parityMode = .odd) := by
    have hcheck : t.parityErr = parityOutcome s.cfg s.slotLevel t.data := hpar
    rw [hcheck, hd, parityOutcome_zero (hL _ (by omega))]
  have hs : t.stopErr = List.replicate s.cfg.stopBits true := by
    rw [hstop, List.eq_replicate_iff, List.length_map, List.length_range]
    refine ⟨rfl, List.forall_mem_map.2 fun j hj => ?_⟩
    have hj := List.mem_range.1 hj
    rw [hL _ (by omega)]
    rfl
  exact ⟨t, hrun, hst, htick, by rw [State.frameRegisters, hd, hstart, hL 0 (by omega), hp, hs]; rfl⟩

/-- One period of a line held at 0 and acknowledged: IDLE to IDLE, with one `breakFrame` handed over on the last step. -/
theorem run_lowPeriod {s : State} (hw : s.cfg.WellFormed) (hq : s.state = .idle)
    (hin : ∀ n, n < s.cfg.completeTick + 1 → s.inputAt n = autoPins false) :
    ∃ u, runFor (s.cfg.completeTick + 1) s = .next u ∧ u.state = .idle ∧
      observe (s.cfg.completeTick + 1) s = [{ frame := breakFrame s.cfg, tick := s.tick + s.cfg.completeTick }] := by
  have hin' : ∀ n, n < s.cfg.completeTick → s.inputAt n = autoPins false := fun n hn => hin n (Nat.lt_succ_of_lt hn)
  obtain ⟨t, hrun, hst, htick, hframe⟩ := run_lowFrame hw hq hin'
  have hpins : t.pins = autoPins false := (run_stream hrun 0).trans (hin _ (Nat.lt_succ_self _))
  obtain ⟨u, hu, hidle, hobs⟩ :=
    run_release (run_cfg hrun ▸ hw) (congrArg Pins.rst hpins) hst (congrArg Pins.frameAck hpins)
  refine ⟨u, (run_add hrun).trans hu, hidle, ?_⟩
  rw [observe_add hrun, hobs, hframe, htick, observe_until_complete hw hq (congrArg Pins.rx (hin' 0 (Nat.succ_pos _)))
    fun n hn => congrArg Pins.rst (hin' n hn)]
  rfl

/-- Settles O48, by induction on the number of periods: each begins in IDLE, where the one before it ended. -/
theorem lineHeldLowMakesBreakFrames : Obligations.LineHeldLowMakesBreakFrames := by
  intro s m hw hq hin
  induction m generalizing s with
  | zero => rw [Nat.zero_mul]; rfl
  | succ m ih =>
    rw [Nat.succ_mul, Nat.add_comm] at hin ⊢
    have hfirst : ∀ n, n < s.cfg.completeTick + 1 → s.inputAt n = autoPins false := fun n hn => hin n (Nat.lt_add_right _ hn)
    obtain ⟨u, hrun, hidle, hobs⟩ := run_lowPeriod hw hq hfirst
    have hcfg := run_cfg hrun
    have htick := run_tick hrun fun n hn => congrArg Pins.rst (hfirst n hn)
    have hrest := ih u (hcfg ▸ hw) hidle fun n hn => by
      rw [run_stream hrun]
      exact hin _ (Nat.add_lt_add_left (hcfg ▸ hn) _)
    rw [hcfg, htick] at hrest
    rw [observe_add hrun, hobs, hrest, List.range_succ_eq_map, List.map_cons, List.map_map, Nat.zero_mul]
    refine congrArg₂ _ rfl (List.map_congr_left fun k _ => ?_)
    simp only [Function.comp, Nat.succ_mul]
    congr 1
    omega

end Sys2Proof.Machine

/-! Exceptions and other events (60_exceptions.md): every frame with every combination of errors is received (R214), every run
continues (R212), errors do not steer (R211), what waits without a limit (R231, R232), and the frames handed over (R230) with
their errors (R210). -/

namespace Sys2Proof.Machine

/-! ### A line for every frame -/

/-- The line that falls on tick 0 and from then on holds the level `L k` throughout the `k`-th period of `P` ticks. As `H ≥ 1`,
the start slot is sampled after tick 0, so that its level is as free as that of the other slots. -/
def slotLine (c : Config) (L : Nat → Level) : List Level :=
  (List.range c.completeTick).map fun n => decide (n ≠ 0) && L (n / c.ticksPerBit)

theorem inputAt_slotLine {s : State} {L : Nat → Level} (hi : s.inputs = (slotLine s.cfg L).map autoPins) {n : Nat}
    (hn : n < s.cfg.completeTick) : s.inputAt n = autoPins (decide (n ≠ 0) && L (n / s.cfg.ticksPerBit)) := by
  rw [State.inputAt, hi, slotLine, List.getElem?_map, List.getElem?_map, List.getElem?_range hn]
  rfl

theorem slotLevel_slotLine {s : State} {L : Nat → Level} (hw : s.cfg.WellFormed)
    (hi : s.inputs = (slotLine s.cfg L).map autoPins) {k : Nat} (hk : k < s.cfg.totalBits) : s.slotLevel k = L k := by
  obtain ⟨-, -, -, -, -, -, hH⟩ := (wellFormed_iff _).1 hw
  have hne : s.cfg.sampleTick k ≠ 0 := Nat.ne_of_gt (Nat.lt_add_right _ hH)
  rw [State.slotLevel, inputAt_slotLine hi (sampleTick_lt_completeTick hk), sampleTick_div hw, decide_eq_true hne]
  rfl

/-- The level of slot `k` from which a block built for `c` records `f`: the parity slot differs from the one sent for the data
exactly when `f` has a parity error. -/
def frameLevel (c : Config) (f : Frame) (k : Nat) : Level :=
  if k = 0 then f.startErr
  else if k ≤ c.dataBits then f.data.getLsbD (k - 1)
  else if k < 1 + c.dataBits + c.paritySlots then sentParity c f.data ^^ f.parityErr
  else !f.stopErr.getD (k - (1 + c.dataBits + c.paritySlots)) false

theorem frameLevel_data {c : Config} (f : Frame) {i : Nat} (hi : i < c.dataBits) :
    frameLevel c f (1 + i) = f.data.getLsbD i := by
  rw [frameLevel, if_neg (by omega), if_pos (by omega), Nat.add_sub_cancel_left]

theorem frameLevel_parity {c : Config} (f : Frame) (hc : c.paritySlots = 1) :
    frameLevel c f (c.dataBits + 1) = (sentParity c f.data ^^ f.parityErr) := by
  rw [frameLevel, if_neg (by omega), if_neg (by omega), if_pos (by omega)]

theorem frameLevel_stop (c : Config) (f : Frame) (j : Nat) :
    frameLevel c f (c.dataBits + 1 + c.paritySlots + j) = !f.stopErr.getD j false := by
  rw [frameLevel, if_neg (by omega), if_neg (by omega), if_neg (by omega), Nat.add_comm c.dataBits 1,
    Nat.add_sub_cancel_left]

/-- The parity flag is 1 exactly when the parity slot differs from the one sent for the data. -/
theorem parityOutcome_xor {c : Config} {v : DataWord} {L : Nat → Level} {e : Level} (hD : c.dataBits ≤ 32)
    (hv : v.toNat < 2 ^ c.dataBits) (hnone : c.parityMode = .none → e = false)
    (hL : c.paritySlots = 1 → L (c.dataBits + 1) = (sentParity c v ^^ e)) : parityOutcome c L v = e := by
  cases hpm : c.parityMode <;> simp only [parityOutcome, hpm]
  case none => exact (hnone hpm).symm
  case even | odd =>
    rw [hL (by simp [Config.paritySlots, hpm]), popcount_low hv hD]
    cases e <;> simp [sentParity, hpm]

/-- The frame of a detection is `f` when the `N` samples are the levels for `f`. -/
theorem run_frameLevel {s : State} {f : Frame} (hw : s.cfg.WellFormed) (hq : s.state = .idle) (hx : s.lineRead = false)
    (hr : ∀ n, n < s.cfg.completeTick → (s.inputAt n).rst = false)
    (hL : ∀ {k}, k < s.cfg.totalBits → s.slotLevel k = frameLevel s.cfg f k) (hd : f.data.toNat < 2 ^ s.cfg.dataBits)
    (hlen : f.stopErr.length = s.cfg.stopBits) (hnone : s.cfg.parityMode = .none → f.parityErr = false) :
    ∃ t, runFor s.cfg.completeTick s = .next t ∧ t.presented = some f := by
  obtain ⟨-, -, -, hD, -⟩ := (wellFormed_iff _).1 hw
  have hN := totalBits_eq s.cfg
  obtain ⟨t, hrun, -, hst, -, -, -, hdata, -, hstart, hpar, hstop⟩ := frameIsDecodedFromItsSamples s hw hq hx hr
  have htd : t.data = f.data := by
    apply BitVec.eq_of_toNat_eq
    rw [hdata, slotSum_bits f.data.toNat _ _ fun i hi => by rw [hL (by omega), frameLevel_data f hi]; rfl,
      Nat.mod_eq_of_lt hd]
  have hts : t.startErr = f.startErr := hstart.trans (hL (by omega))
  have htp : t.parityErr = f.parityErr := by
    refine Eq.trans (hpar : t.parityErr = parityOutcome s.cfg s.slotLevel t.data) ?_
    rw [htd]
    exact parityOutcome_xor hD hd hnone fun h1 => by rw [hL (by omega), frameLevel_parity f h1]
  have hte : t.stopErr = f.stopErr := by
    rw [hstop]
    refine List.ext_getElem (by simp [hlen]) fun j hj hj' => ?_
    rw [List.getElem_map, List.getElem_range, hL (by omega), frameLevel_stop, Bool.not_not,
      List.getD_eq_getElem _ _ hj']
  exact ⟨t, hrun, by rw [presented_of_complete hst, State.frameRegisters, htd, hts, htp, hte]⟩

/-- Settles O47: the line that has the levels for the frame in its slots is detected on tick 0. -/
theorem everyFrameCanBeReceived : Obligations.EveryFrameCanBeReceived := by
  intro c f hw hd hlen hnone
  let s := (State.resetFor c).withInputs ((slotLine c (frameLevel c f)).map autoPins)
  have hi : s.inputs = (slotLine s.cfg (frameLevel c f)).map autoPins := rfl
  have hx : s.lineRead = false := congrArg Pins.rx (inputAt_slotLine hi (Nat.succ_pos _))
  have hr : ∀ n, n < c.completeTick → (s.inputAt n).rst = false := fun n hn => congrArg Pins.rst (inputAt_slotLine hi hn)
  exact ⟨_, run_frameLevel (s := s) hw rfl hx hr (slotLevel_slotLine hw hi) hd hlen hnone⟩

/-! ### Every run continues -/

theorem run_total {s : State} (hw : s.cfg.WellFormed) (n : Nat) : ∃ t, runFor n s = .next t := by
  induction n generalizing s with
  | zero => exact ⟨s, rfl⟩
  | succ n ih =>
    obtain ⟨u, hu⟩ := step_total hw
    rw [run_succ hu]
    exact ih ((step_stream hu).1 ▸ hw)

/-- Settles O14: every step of a run answers a next state, and none writes the configuration. -/
theorem everyRunContinues : Obligations.EveryRunContinues := by
  intro s n hw
  obtain ⟨t, ht⟩ := run_total hw n
  exact ⟨t, ht, run_cfg ht⟩

/-! ### What steers a frame -/

/-- Two states whose control registers and configuration are the same, whatever levels, data and errors are recorded. -/
structure SameControl (s s' : State) : Prop where
  cfg : s.cfg = s'.cfg
  state : s.state = s'.state
  elapsed : s.elapsed = s'.elapsed
  bitIdx : s.bitIdx = s'.bitIdx

theorem SameControl.due {s s' : State} (h : SameControl s s') : s.due = s'.due := by
  simp only [State.due, State.threshold, h.cfg, h.state, h.elapsed]

/-- Only IDLE chooses its operation by the line. -/
theorem SameControl.fetch {s s' : State} (h : SameControl s s') (hr : s.pins.rst = s'.pins.rst)
    (ha : s.pins.frameAck = s'.pins.frameAck) (hq : s.state ≠ .idle) : s.fetch = s'.fetch := by
  rw [fetch_eq, fetch_eq, ← hr, ← ha, ← h.due, ← h.state]
  cases hs : s.state
  case idle => exact absurd hs hq
  all_goals rfl

theorem SameControl.setBitIdx {s s' : State} (h : SameControl s s') {n n' : Nat} (hn : n = n') :
    SameControl (s.setBitIdx n) (s'.setBitIdx n') :=
  ⟨h.cfg, h.state, h.elapsed, by rw [State.setBitIdx_bitIdx, State.setBitIdx_bitIdx, h.cfg, hn]⟩

theorem SameControl.goTo {s s' : State} (h : SameControl s s') {q q' : FsmState} (hq : q = q') :
    SameControl (s.goTo q) (s'.goTo q') := ⟨h.cfg, hq, h.elapsed, h.bitIdx⟩

theorem SameControl.sampleData {s s' : State} (h : SameControl s s') : SameControl s.sampleData s'.sampleData :=
  ⟨h.cfg, h.state, rfl, h.bitIdx⟩

theorem SameControl.sampleStop {s s' : State} (h : SameControl s s') : SameControl s.sampleStop s'.sampleStop :=
  ⟨h.cfg, h.state, rfl, h.bitIdx⟩

theorem SameControl.dataSample {s s' u u' : State} (h : SameControl s s') (hu : Machine.exec .dataSample s = .next u)
    (hu' : Machine.exec .dataSample s' = .next u') : SameControl u u' := by
  by_cases hlast : s.bitIdx = s.cfg.dataBits - 1
  · rw [exec_dataSample_last hlast] at hu
    rw [exec_dataSample_last (h.bitIdx ▸ h.cfg ▸ hlast)] at hu'
    cases hu; cases hu'
    exact (h.sampleData.setBitIdx rfl).goTo (by rw [h.cfg])
  · rw [exec_dataSample_next hlast] at hu
    rw [exec_dataSample_next (h.bitIdx ▸ h.cfg ▸ hlast)] at hu'
    cases hu; cases hu'
    exact h.sampleData.setBitIdx (congrArg (· + 1) h.bitIdx)

theorem SameControl.stopSample {s s' u u' : State} (h : SameControl s s') (hu : Machine.exec .stopSample s = .next u)
    (hu' : Machine.exec .stopSample s' = .next u') : SameControl u u' := by
  by_cases hlast : s.bitIdx = s.cfg.stopBits - 1
  · rw [exec_stopSample_last hlast] at hu
    rw [exec_stopSample_last (h.bitIdx ▸ h.cfg ▸ hlast)] at hu'
    cases hu; cases hu'
    exact (h.sampleStop.setBitIdx rfl).goTo rfl
  · rw [exec_stopSample_next hlast] at hu
    rw [exec_stopSample_next (h.bitIdx ▸ h.cfg ▸ hlast)] at hu'
    cases hu; cases hu'
    exact h.sampleStop.setBitIdx (congrArg (· + 1) h.bitIdx)

/-- What an operation writes to the control registers depends on the control registers only. -/
theorem SameControl.exec {i : Instr} {s s' u u' : State} (h : SameControl s s') (hu : Machine.exec i s = .next u)
    (hu' : Machine.exec i s' = .next u') : SameControl u u' := by
  cases i
  case dataSample => exact h.dataSample hu hu'
  case stopSample => exact h.stopSample hu hu'
  case startSample | paritySample =>
    cases hu; cases hu'
    exact ⟨h.cfg, rfl, rfl, by simp⟩
  case startWait | dataWait | parityWait | stopWait =>
    cases hu; cases hu'
    exact ⟨h.cfg, h.state, by rw [State.countTick_elapsed, State.countTick_elapsed, h.cfg, h.elapsed], h.bitIdx⟩
  case reset | idleDetect =>
    cases hu; cases hu'
    exact ⟨h.cfg, rfl, rfl, rfl⟩
  case idleHold | completeHold => cases hu; cases hu'; exact h
  case completeRelease | reservedState => cases hu; cases hu'; exact h.goTo rfl

/-- Settles O35: outside IDLE the same operation runs in both states, and writes the same control registers. -/
theorem errorsDoNotSteerTheFrame : Obligations.ErrorsDoNotSteerTheFrame := by
  intro s s' t t' hc hq he hi hr ha hidle h h'
  have hsame : SameControl s s' := ⟨hc, hq, he, hi⟩
  obtain ⟨-, u, hu, rfl⟩ := step_cases h
  obtain ⟨-, u', hu', rfl⟩ := step_cases h'
  rw [← hsame.fetch hr ha hidle] at hu'
  have hnext := hsame.exec hu hu'
  exact ⟨hnext.state, hnext.elapsed, hnext.bitIdx⟩

/-! ### Waiting without a limit -/

theorem outputs_of_sameRegisters {s t : State} (h : t.sameRegisters s) : t.outputs = s.outputs := by
  obtain ⟨-, hq, -, -, hd, -, hs, hp, he⟩ := h
  rw [State.outputs, State.outputs, State.frameValid, State.frameValid, hq, hd, hs, hp, he]

/-- While the input levels select an operation that writes nothing, the registers stay as they are and nothing is handed
over. -/
theorem run_hold {s : State} {quiet : Pins → Prop} (hw : s.cfg.WellFormed)
    (hold : ∀ t, t.sameRegisters s → quiet t.pins → exec t.fetch t = .next t ∧ t.handover = none) {n : Nat}
    (hin : ∀ k, k < n → quiet (s.inputAt k)) :
    (∃ t, runFor n s = .next t ∧ t.sameRegisters s) ∧ observe n s = [] := by
  induction n with
  | zero => exact ⟨⟨s, rfl, rfl, rfl, rfl, rfl, rfl, rfl, rfl, rfl, rfl⟩, rfl⟩
  | succ n ih =>
    obtain ⟨⟨t, hrun, hsame⟩, hobs⟩ := ih fun k hk => hin k (Nat.lt_succ_of_lt hk)
    have hpins : t.pins = s.inputAt n := run_stream hrun 0
    obtain ⟨hex, hh⟩ := hold t hsame (hpins ▸ hin n (Nat.lt_succ_self n))
    have hstep := step_of_exec (run_cfg hrun ▸ hw) hex
    refine ⟨⟨t.clockTick, (run_add hrun).trans (run_succ hstep), hsame⟩, ?_⟩
    rw [observe_add hrun, hobs, observe_succ hstep, hh]
    rfl

/-- Settles O36: in COMPLETE without reset and acknowledgement the operation is COMPLETE_HOLD. -/
theorem presentedFrameIsStable : Obligations.PresentedFrameIsStable := by
  intro s n hw hq hin
  obtain ⟨⟨t, hrun, hsame⟩, hobs⟩ := run_hold hw (quiet := fun p => p.rst = false ∧ p.frameAck = false)
    (fun t hsame ⟨hr, ha⟩ => by
      obtain ⟨-, hst, -⟩ := hsame
      obtain ⟨hf, hex, -, -, hh⟩ := completeHoldWritesNothing t hr (hst.trans hq) ha
      exact ⟨hf ▸ hex, hh⟩) hin
  exact ⟨⟨t, hrun, hsame, outputs_of_sameRegisters hsame⟩, hobs⟩

/-- Settles O37: in IDLE without reset and with the line at 1 the operation is IDLE_HOLD. -/
theorem idleHasNoTimeout : Obligations.IdleHasNoTimeout := by
  intro s n hw hq hin
  refine run_hold hw (quiet := fun p => p.rst = false ∧ p.rx = true) (fun t hsame ⟨hr, hx⟩ => ?_) hin
  obtain ⟨-, hst, -⟩ := hsame
  have hidle := hst.trans hq
  obtain ⟨hf, hex, -⟩ := idleHoldWritesNothing t hr hidle hx
  exact ⟨hf ▸ hex, handover_of_ne_complete (by rw [hidle]; decide)⟩

/-! ### The frames handed over -/

theorem fetch_eq_release_iff (s : State) :
    s.fetch = .completeRelease ↔ s.state = .complete ∧ s.pins.rst = false ∧ s.pins.frameAck = true := by
  by_cases hq : s.state = .complete
  · rw [fetch_eq, hq]
    cases s.pins.rst <;> cases s.pins.frameAck <;> simp
  · exact iff_of_false (fetch_ne_release hq) fun h => hq h.1

/-- Settles O39: `handover` is the frame of a COMPLETE_RELEASE, which only an acknowledged COMPLETE without reset selects. -/
theorem handoverOnlyOnRelease : Obligations.HandoverOnlyOnRelease := by
  intro s h
  by_cases hf : s.fetch = .completeRelease
  · obtain ⟨hq, hr, ha⟩ := (fetch_eq_release_iff s).1 hf
    rw [handover_of_release hf, Option.some.injEq, eq_comm]
    exact ⟨fun hh => ⟨hq, hr, ha, hh⟩, fun ⟨_, _, _, hh⟩ => hh⟩
  · rw [handover_of_ne_release hf]
    exact iff_of_false (by simp) fun ⟨hq, hr, ha, _⟩ => hf ((fetch_eq_release_iff s).2 ⟨hq, hr, ha⟩)

/-! ### The errors of a frame -/

theorem startBitError_mem_errors (f : Frame) : ErrorCause.startBitError ∈ f.errors ↔ f.startErr = true := by
  cases hs : f.startErr <;> cases hp : f.parityErr <;> simp [Frame.errors, hs, hp]

theorem parityError_mem_errors (f : Frame) : ErrorCause.parityError ∈ f.errors ↔ f.parityErr = true := by
  cases hs : f.startErr <;> cases hp : f.parityErr <;> simp [Frame.errors, hs, hp]

/-- Entry `j` past the end of `stopErr` is no error. -/
theorem stopBitError_mem_errors (f : Frame) (j : Nat) : ErrorCause.stopBitError j ∈ f.errors ↔ f.stopErr[j]? = some true := by
  have hmem : ErrorCause.stopBitError j ∈ f.errors ↔ j < f.stopErr.length ∧ f.stopErr.getD j false = true := by
    cases hs : f.startErr <;> cases hp : f.parityErr <;> simp [Frame.errors, hs, hp]
  rw [hmem]
  by_cases hj : j < f.stopErr.length <;> simp [hj]

/-- The ids of 60_exceptions.md R210 leave no two errors on one number: `2 + j` is neither 0 nor 1. -/
theorem ErrorCause.id_injective : Function.Injective ErrorCause.id := by
  intro a b h
  cases a <;> cases b
  case startBitError.startBitError | parityError.parityError => rfl
  case stopBitError.stopBitError i j => rw [Nat.add_left_cancel (h : 2 + i = 2 + j)]
  all_goals
    simp only [ErrorCause.id] at h
    omega

/-- Settles O40: membership for each of the three kinds of error, and the ids of R210. -/
theorem frameErrorsAreItsFlags : Obligations.FrameErrorsAreItsFlags :=
  ⟨fun f => ⟨startBitError_mem_errors f, parityError_mem_errors f, stopBitError_mem_errors f⟩, rfl, rfl, fun _ => rfl,
    fun _ _ h => ErrorCause.id_injective h⟩

end Sys2Proof.Machine

/-! Reset and hazards (70_reset_and_hazards.md): RESET (R240 to R243), the handover of a frame after a number of holds (R250,
R260), and back-to-back streams under a consumer that answers at once and under one that is late (R250). -/

namespace Sys2Proof.Machine

/-! ### RESET -/

theorem fetch_reset {s : State} (hr : s.pins.rst = true) : s.fetch = .reset := by
  rw [fetch_eq, hr]
  rfl

/-- A RESET hands nothing over, not even in COMPLETE with an acknowledgement (60_exceptions.md R230). -/
theorem handover_of_rst {s : State} (hr : s.pins.rst = true) : s.handover = none :=
  handover_of_ne_release (by rw [fetch_reset hr]; decide)

/-- Settles O1: `rst = 1` selects RESET, whose clearing, `Restart()` and move to IDLE write the fields of the statement. -/
theorem resetClearsEveryRegister : Obligations.ResetClearsEveryRegister :=
  fun _ hr => ⟨fetch_reset hr, rfl, handover_of_rst hr⟩

/-- Settles O20: RESET writes every register, and the end of its tick leaves the tick index at 0. -/
theorem resetStepLeavesLaunchState : Obligations.ResetStepLeavesLaunchState := by
  intro s hw hr
  obtain ⟨hf, hex, hh⟩ := resetClearsEveryRegister s hr
  refine ⟨?_, hh⟩
  rw [step_of_exec hw (hf ▸ hex), clockTick_of_exec hex, hr]
  rfl

/-! ### From a detection to the handover after the holds -/

theorem frameRegisters_of_sameRegisters {s t : State} (h : t.sameRegisters s) : t.frameRegisters = s.frameRegisters := by
  obtain ⟨-, -, -, -, hd, -, hs, hp, he⟩ := h
  rw [State.frameRegisters, State.frameRegisters, hd, hs, hp, he]

/-- A COMPLETE that is acknowledged after `holds` steps hands its frame over once, and leaves it in the registers. -/
theorem run_holds_release {t : State} {holds : Nat} (hw : t.cfg.WellFormed) (hq : t.state = .complete)
    (hr : ∀ k, k < holds + 1 → (t.inputAt k).rst = false) (hh : ∀ k, k < holds → (t.inputAt k).frameAck = false)
    (ha : (t.inputAt holds).frameAck = true) :
    ∃ u, runFor (holds + 1) t = .next u ∧ u.state = .idle ∧ u.frameRegisters = t.frameRegisters ∧
      observe (holds + 1) t = [{ frame := t.frameRegisters, tick := t.tick + holds }] := by
  obtain ⟨⟨t', hrun, hsame, -⟩, hobs⟩ :=
    presentedFrameIsStable t holds hw hq fun k hk => ⟨hr k (Nat.lt_succ_of_lt hk), hh k hk⟩
  have hpins : t'.pins = t.inputAt holds := run_stream hrun 0
  have hq' : t'.state = .complete := by
    obtain ⟨-, hst, -⟩ := hsame
    exact hst.trans hq
  obtain ⟨hf, hex, -, -, hhand⟩ :=
    completeReleaseReturnsToIdle t' (hpins ▸ hr holds (Nat.lt_succ_self _)) hq' (hpins ▸ ha)
  have hstep := step_of_exec (run_cfg hrun ▸ hw) (hf ▸ hex)
  have hframe := frameRegisters_of_sameRegisters hsame
  refine ⟨_, (run_add hrun).trans (run_succ hstep), rfl, hframe, ?_⟩
  rw [observe_add hrun, hobs, observe_succ hstep, hhand, hframe, run_tick hrun fun k hk => hr k (Nat.lt_succ_of_lt hk)]
  rfl

/-- Settles O43: nothing is handed over until COMPLETE, and the rest is `run_holds_release`. -/
theorem handoverComesAfterTheHolds : Obligations.HandoverComesAfterTheHolds := by
  intro s holds hw hq hx hr hh ha
  have hr' : ∀ n, n < s.cfg.completeTick → (s.inputAt n).rst = false := fun n hn => hr n (by omega)
  obtain ⟨t, hrun, hcfg, hst, -, -, htick, -⟩ := frameIsDecodedFromItsSamples s hw hq hx hr'
  have hin := run_stream hrun
  obtain ⟨u, hu, hidle, hframe, hobs⟩ := run_holds_release (t := t) (holds := holds) (hcfg ▸ hw) hst
    (fun k hk => by rw [hin]; exact hr _ (by omega)) (fun k hk => by rw [hin]; exact hh _ (by omega) (by omega))
    (by rw [hin]; exact ha)
  refine ⟨t, u, hrun, (run_add hrun).trans hu, hidle, hframe, ?_⟩
  rw [Nat.add_assoc, observe_add hrun, observe_until_complete hw hq hx hr', hobs, htick]
  rfl

/-! ### The room between two back-to-back frames -/

/-- The first COMPLETE step comes `P − H − 1` ticks before the next back-to-back frame's edge. -/
theorem completeTick_add_ticksPerBit (c : Config) :
    c.completeTick + c.ticksPerBit = c.totalBits * c.ticksPerBit + c.ticksPerHalfBit + 1 := by
  obtain ⟨m, hm⟩ := Nat.exists_eq_add_one_of_ne_zero (by have := totalBits_eq c; omega : c.totalBits ≠ 0)
  rw [Config.completeTick, Config.sampleTick, hm, Nat.add_sub_cancel, Nat.succ_mul]
  omega

/-- IDLE resumes by the next back-to-back frame's edge exactly when `A + H + 2 ≤ P` (70_reset_and_hazards.md R250). -/
theorem idle_in_time_iff (c : Config) (holds : Nat) :
    c.completeTick + holds + 1 ≤ c.totalBits * c.ticksPerBit ↔ holds + c.ticksPerHalfBit + 2 ≤ c.ticksPerBit := by
  have := completeTick_add_ticksPerBit c
  omega

/-- Settles O50, from the room between two frames; with `H = ⌊P/2⌋` the bound for no holds is `P ≥ 3`. -/
theorem consumerLatencyBound : Obligations.ConsumerLatencyBound := by
  intro c holds _
  have hroom := completeTick_add_ticksPerBit c
  have hH : c.ticksPerHalfBit = c.ticksPerBit / 2 := rfl
  refine ⟨?_, idle_in_time_iff c holds, ?_⟩
  · rw [Config.lateness]
    omega
  · rw [idle_in_time_iff c 0]
    omega

/-! ### One period of a back-to-back stream -/

/-- From this step on the input levels are those of one back-to-back `frame v`: no reset, the line at the frame's levels, and
the acknowledgement after `holds` steps in COMPLETE. -/
structure SentPeriod (s : State) (v : DataWord) (holds : Nat) : Prop where
  rst : ∀ n, n < s.cfg.totalBits * s.cfg.ticksPerBit → (s.inputAt n).rst = false
  rx : ∀ n, n < s.cfg.totalBits * s.cfg.ticksPerBit → (s.inputAt n).rx = sentLevel s.cfg v (n / s.cfg.ticksPerBit)
  hold : ∀ n, s.cfg.completeTick ≤ n → n < s.cfg.completeTick + holds → (s.inputAt n).frameAck = false
  ack : (s.inputAt (s.cfg.completeTick + holds)).frameAck = true

/-- What a block needs to receive the coming `frame v` in one period: it is in IDLE, the value fits, and the consumer is in
time. -/
structure Receives (s : State) (v : DataWord) (holds : Nat) : Prop where
  built : s.cfg.WellFormed
  idle : s.state = .idle
  fits : v.toNat < 2 ^ s.cfg.dataBits
  inTime : holds + s.cfg.ticksPerHalfBit + 2 ≤ s.cfg.ticksPerBit
  period : SentPeriod s v holds

/-- The level that a sent frame has in a slot is the one from which its clean frame is decoded. -/
theorem frameLevel_cleanFrame (c : Config) (v : DataWord) (k : Nat) : frameLevel c (cleanFrame c v) k = sentLevel c v k := by
  simp [frameLevel, sentLevel, cleanFrame]

namespace Receives

variable {s : State} {v : DataWord} {holds : Nat}

theorem handover_lt (h : Receives s v holds) :
    s.cfg.completeTick + holds + 1 ≤ s.cfg.totalBits * s.cfg.ticksPerBit := (idle_in_time_iff _ _).2 h.inTime

theorem lineRead_eq_false (h : Receives s v holds) : s.lineRead = false := by
  have hlt := h.handover_lt
  rw [State.lineRead, State.pins, h.period.rx 0 (by omega), Nat.zero_div]
  rfl

theorem rst_eq_false (h : Receives s v holds) {n : Nat} (hn : n < s.cfg.completeTick + holds + 1) : (s.inputAt n).rst = false :=
  h.period.rst n (hn.trans_le h.handover_lt)

theorem slotLevel_eq (h : Receives s v holds) {k : Nat} (hk : k < s.cfg.totalBits) : s.slotLevel k = sentLevel s.cfg v k := by
  have hlt := sampleTick_lt_completeTick hk
  have hroom := h.handover_lt
  rw [State.slotLevel, h.period.rx _ (by omega), sampleTick_div h.built]

/-- After the handover the line is in the frame's last stop bit. -/
theorem rx_of_handover_lt (h : Receives s v holds) {n : Nat} (hn : s.cfg.completeTick + holds < n)
    (hlt : n < s.cfg.totalBits * s.cfg.ticksPerBit) : (s.inputAt n).rx = true := by
  obtain ⟨-, -, -, -, hS, hP, -⟩ := (wellFormed_iff _).1 h.built
  have hN := totalBits_eq s.cfg
  have hlast : s.cfg.totalBits - 1 ≤ n / s.cfg.ticksPerBit := by
    rw [Nat.le_div_iff_mul_le hP]
    rw [Config.completeTick, Config.sampleTick] at hn
    omega
  rw [h.period.rx n hlt, sentLevel, if_neg (by omega), if_neg (by omega), if_neg (by omega)]

/-- The first COMPLETE step has the frame that was sent. -/
theorem run_complete (h : Receives s v holds) :
    ∃ t, runFor s.cfg.completeTick s = .next t ∧ t.state = .complete ∧ t.frameRegisters = cleanFrame s.cfg v := by
  obtain ⟨t, hrun, hpres⟩ := run_frameLevel (f := cleanFrame s.cfg v) h.built h.idle h.lineRead_eq_false
    (fun n hn => h.rst_eq_false (by omega)) (fun hk => by rw [h.slotLevel_eq hk, frameLevel_cleanFrame]) h.fits (by simp [cleanFrame])
    fun _ => rfl
  have hq : t.state = .complete := by
    by_contra hne
    rw [presented_of_not_complete hne] at hpres
    cases hpres
  rw [presented_of_complete hq] at hpres
  exact ⟨t, hrun, hq, Option.some.inj hpres⟩

/-- From the handover to the period's end the block is in IDLE, and the clean frame alone is handed over. -/
theorem run_handover (h : Receives s v holds) {n : Nat} (hn : s.cfg.completeTick + holds < n)
    (hle : n ≤ s.cfg.totalBits * s.cfg.ticksPerBit) :
    ∃ u, runFor n s = .next u ∧ u.state = .idle ∧ (observe n s).map HandedOver.frame = [cleanFrame s.cfg v] := by
  obtain ⟨m, rfl⟩ := Nat.exists_eq_add_of_le hn
  obtain ⟨t₀, hrun₀, -, hframe⟩ := h.run_complete
  obtain ⟨t, u, hrun, hu, hidle, -, hobs⟩ := handoverComesAfterTheHolds s holds h.built h.idle h.lineRead_eq_false
    (fun n hn => h.rst_eq_false hn) h.period.hold h.period.ack
  obtain rfl : t₀ = t := Host.Outcome.next.inj (hrun₀.symm.trans hrun)
  obtain ⟨⟨w, hw, hsame⟩, hquiet⟩ := idleHasNoTimeout u m (run_cfg hu ▸ h.built) hidle fun k hk => by
    rw [run_stream hu]
    exact ⟨h.period.rst _ (by omega), h.rx_of_handover_lt (by omega) (by omega)⟩
  obtain ⟨-, hst, -⟩ := hsame
  refine ⟨w, (run_add hu).trans hw, hst.trans hidle, ?_⟩
  rw [observe_add hu, hobs, hquiet, hframe]
  rfl

/-- Before the first COMPLETE step the block is in IDLE or in a slot of the frame. -/
theorem run_slot (h : Receives s v holds) {n : Nat} (hn : n < s.cfg.completeTick) :
    ∃ t, runFor n s = .next t ∧ t.state ≠ .complete := by
  obtain ⟨-, hne, -, hslots⟩ := slotsAreSampledOnSchedule s h.built h.idle h.lineRead_eq_false fun m hm => h.rst_eq_false (by omega)
  obtain rfl | hpos := Nat.eq_zero_or_pos n
  · exact ⟨s, rfl, hne⟩
  · obtain ⟨k, hk, hprev, hle⟩ := exists_slot hn
    obtain ⟨t, hrun, -, hne, -⟩ := hslots n k hpos hk hprev hle
    exact ⟨t, hrun, hne⟩

/-- The block stays in COMPLETE until the step that is acknowledged. -/
theorem run_hold (h : Receives s v holds) {n : Nat} (hn : s.cfg.completeTick ≤ n) (hle : n ≤ s.cfg.completeTick + holds) :
    ∃ t, runFor n s = .next t ∧ t.state = .complete := by
  obtain ⟨m, rfl⟩ := Nat.exists_eq_add_of_le hn
  obtain ⟨t, hrun, hq, -⟩ := h.run_complete
  obtain ⟨⟨t', hrun', hsame, -⟩, -⟩ := presentedFrameIsStable t m (run_cfg hrun ▸ h.built) hq fun k hk => by
    rw [run_stream hrun]
    exact ⟨h.rst_eq_false (by omega), h.period.hold _ (by omega) (by omega)⟩
  obtain ⟨-, hst, -⟩ := hsame
  exact ⟨t', (run_add hrun).trans hrun', hst.trans hq⟩

/-- Of the period's steps exactly `holds + 1` are in COMPLETE. -/
theorem run_state (h : Receives s v holds) {n : Nat} (hn : n < s.cfg.totalBits * s.cfg.ticksPerBit) :
    ∃ t, runFor n s = .next t ∧ (t.state = .complete ↔ s.cfg.completeTick ≤ n ∧ n ≤ s.cfg.completeTick + holds) := by
  rcases lt_or_ge n s.cfg.completeTick with hlt | hge
  · obtain ⟨t, hrun, hne⟩ := h.run_slot hlt
    exact ⟨t, hrun, iff_of_false hne (by omega)⟩
  · rcases le_or_gt n (s.cfg.completeTick + holds) with hle | hgt
    · obtain ⟨t, hrun, hq⟩ := h.run_hold hge hle
      exact ⟨t, hrun, iff_of_true hq ⟨hge, hle⟩⟩
    · obtain ⟨t, hrun, hidle, -⟩ := h.run_handover hgt hn.le
      exact ⟨t, hrun, iff_of_false (by rw [hidle]; decide) (by omega)⟩

/-- The block receives the coming `frame v` in one period: it ends in IDLE, with the clean frame alone handed over. -/
theorem run_period (h : Receives s v holds) :
    ∃ u, runFor (s.cfg.totalBits * s.cfg.ticksPerBit) s = .next u ∧ u.state = .idle ∧
      (observe (s.cfg.totalBits * s.cfg.ticksPerBit) s).map HandedOver.frame = [cleanFrame s.cfg v] :=
  h.run_handover h.handover_lt le_rfl

end Receives

/-! ### A stream that is acknowledged at once -/

theorem length_sentFrame (c : Config) (v : DataWord) :
    ((Segment.frame v none none none).levels c).length = c.totalBits * c.ticksPerBit := by
  rw [Segment.levels, length_holdSlots, length_frameSlots]

/-- A frame on the line that is acknowledged at every step, in a build with room for it. -/
theorem sentPeriod_auto {s : State} {v : DataWord} {rest : List Pins} (hw : s.cfg.WellFormed)
    (hP : s.cfg.ticksPerHalfBit + 2 ≤ s.cfg.ticksPerBit)
    (hi : s.inputs = ((Segment.frame v none none none).levels s.cfg).map autoPins ++ rest) : SentPeriod s v 0 where
  rst n hn := congrArg Pins.rst (inputAt_sentFrame hw hi hn)
  rx n hn := congrArg Pins.rx (inputAt_sentFrame hw hi hn)
  hold n hn hlt := absurd hn (by omega)
  ack := congrArg Pins.frameAck (inputAt_sentFrame hw hi ((idle_in_time_iff s.cfg 0).2 (by omega)))

/-- Settles O45, by induction on the stream: each frame begins in IDLE, where the period of the one before it ended. -/
theorem backToBackStreamIsReceived : Obligations.BackToBackStreamIsReceived := by
  intro s vs rest hw hP hq hfits hi
  induction vs generalizing s with
  | nil => rw [List.length_nil, Nat.zero_mul]; rfl
  | cons v vs ih =>
    obtain ⟨hv, hvs⟩ := List.forall_mem_cons.1 hfits
    rw [List.flatMap_cons, List.map_append, List.append_assoc] at hi
    obtain ⟨u, hrun, hidle, hobs⟩ := Receives.run_period ⟨hw, hq, hv, by omega, sentPeriod_auto hw hP hi⟩
    have hcfg := run_cfg hrun
    have hrest := run_inputs hrun
    rw [hi, List.drop_left' (by rw [List.length_map, length_sentFrame])] at hrest
    have hnext := ih u (hcfg ▸ hw) (hcfg ▸ hP) hidle (hcfg ▸ hvs) (hcfg ▸ hrest)
    rw [hcfg] at hnext
    rw [List.length_cons, Nat.succ_mul, Nat.add_comm, observe_add hrun, List.map_append, hobs, hnext]
    rfl

/-! ### The closed loop as a run on the levels that its consumer gives -/

/-- The listed levels `ps` are those of the closed loop with consumer `k`, where `count n` is the number of consecutive COMPLETE
steps just before tick `n` of the run on them. -/
def AnsweredBy (k : Consumer) (count : Nat → Nat) (s : State) (ps : List Pins) : Prop :=
  ∀ n p, ps[n]? = some p → ∃ t, runFor n (s.withInputs ps) = .next t ∧ count (n + 1) = t.completeStep (count n) ∧
    p.rst = false ∧ p.frameAck = k.ack (count (n + 1))

/-- Levels listed for later ticks do not change what this tick's step writes. -/
theorem step_withInputs_cons {s t : State} {p : Pins} (ps : List Pins) (h : step (s.withInputs [p]) = .next t) :
    step (s.withInputs (p :: ps)) = .next (t.withInputs ps) ∧ t.inputs = [] := by
  obtain ⟨hw, u, hu, rfl⟩ := step_cases h
  have hu' : exec (s.withInputs (p :: ps)).fetch (s.withInputs (p :: ps)) = .next (u.withInputs (p :: ps)) :=
    exec_withInputs (s := s.withInputs [p]) (.inr rfl) hu
  rw [step_of_exec (by exact hw) hu', clockTick_of_exec hu', clockTick_of_exec hu]
  exact ⟨rfl, rfl⟩

/-- One tick of the closed loop. -/
theorem runLoop_cons {k : Consumer} {p : Pins} {ls : List Level} {before : Nat} {s t u : State} {hs : List HandedOver}
    (hr : p.rst = false) (ha : p.frameAck = k.ack (s.completeStep before)) (hstep : step (s.withInputs [p]) = .next t)
    (hrest : runLoop k ls (s.completeStep before) t = .next (u, hs)) :
    runLoop k (p.rx :: ls) before s = .next (u, (s.withInputs [p]).handover.toList ++ hs) := by
  have hp : ({ rst := false, rx := p.rx, frameAck := k.ack (s.completeStep before) } : Pins) = p := by rw [← hr, ← ha]
  have hs₁ : ({ s with inputs := [p] } : State) = s.withInputs [p] := rfl
  simp only [runLoop, hp, hs₁, hstep, hrest]

/-- A part of the closed loop is a run on the levels that the consumer gives. -/
theorem runLoop_append {k : Consumer} {count : Nat → Nat} {ps : List Pins} {ls : List Level} {s t u : State}
    {hs : List HandedOver} (hw : s.cfg.WellFormed) (hi : s.inputs = []) (hps : AnsweredBy k count s ps)
    (hrun : runFor ps.length (s.withInputs ps) = .next t) (hrest : runLoop k ls (count ps.length) t = .next (u, hs)) :
    runLoop k (ps.map Pins.rx ++ ls) (count 0) s = .next (u, observe ps.length (s.withInputs ps) ++ hs) := by
  induction ps generalizing s count with
  | nil =>
    have hs : s.withInputs [] = s := by rw [State.withInputs, ← hi]
    obtain rfl : s = t := Host.Outcome.next.inj (hs ▸ hrun)
    exact hrest
  | cons p ps ih =>
    obtain ⟨t₀, ht₀, hcount, hr, ha⟩ := hps 0 p rfl
    obtain rfl : s.withInputs (p :: ps) = t₀ := Host.Outcome.next.inj ht₀
    replace hcount : count 1 = s.completeStep (count 0) := hcount
    obtain ⟨t₁, ht₁⟩ := step_total (s := s.withInputs [p]) hw
    obtain ⟨hstep, hi₁⟩ := step_withInputs_cons ps ht₁
    have hw₁ : t₁.cfg.WellFormed := (step_stream ht₁).1 ▸ hw
    have hps₁ : AnsweredBy k (fun n => count (n + 1)) t₁ ps := fun n q hq => by
      have hnext := hps (n + 1) q hq
      rwa [run_succ hstep] at hnext
    rw [List.length_cons, run_succ hstep] at hrun
    have hrec := ih hw₁ hi₁ hps₁ hrun hrest
    rw [List.length_cons, observe_succ hstep, List.append_assoc]
    exact runLoop_cons hr (hcount ▸ ha) ht₁ (hcount ▸ hrec)

/-- Outside COMPLETE the loop does not depend on how many COMPLETE steps came just before. -/
theorem runLoop_before {k : Consumer} {ls : List Level} {s : State} (before : Nat) (hq : s.state ≠ .complete) :
    runLoop k ls before s = runLoop k ls 0 s := by
  cases ls with
  | nil => rfl
  | cons l ls => simp only [runLoop, State.completeStep_other _ hq]

/-! ### A stream whose consumer is late -/

/-- The levels of one period: the line of `frame v`, and the acknowledgement after `holds` steps in COMPLETE. -/
def delayedPins (c : Config) (v : DataWord) (holds : Nat) : List Pins :=
  (List.range (c.totalBits * c.ticksPerBit)).map fun n =>
    { rst := false, rx := sentLevel c v (n / c.ticksPerBit), frameAck := decide (n = c.completeTick + holds) }

/-- The consecutive COMPLETE steps just before tick `n` of such a period. -/
def completeCount (c : Config) (holds n : Nat) : Nat :=
  if n ≤ c.completeTick + holds + 1 then n - c.completeTick else 0

theorem length_delayedPins (c : Config) (v : DataWord) (holds : Nat) :
    (delayedPins c v holds).length = c.totalBits * c.ticksPerBit := by simp [delayedPins]

theorem getElem?_delayedPins {c : Config} (v : DataWord) (holds : Nat) {n : Nat} (hn : n < c.totalBits * c.ticksPerBit) :
    (delayedPins c v holds)[n]? =
      some { rst := false, rx := sentLevel c v (n / c.ticksPerBit), frameAck := decide (n = c.completeTick + holds) } := by
  rw [delayedPins, List.getElem?_map, List.getElem?_range hn]
  rfl

/-- The line holds each slot's level for `P` ticks. -/
theorem getElem?_sentFrame {c : Config} (hw : c.WellFormed) (v : DataWord) {n : Nat}
    (hn : n < c.totalBits * c.ticksPerBit) :
    ((Segment.frame v none none none).levels c)[n]? = some (sentLevel c v (n / c.ticksPerBit)) := by
  obtain ⟨-, -, -, -, -, hP, -⟩ := (wellFormed_iff _).1 hw
  rw [Segment.levels, getElem?_holdSlots _ hP, frameSlots_get _ _ _ ((Nat.div_lt_iff_lt_mul hP).2 hn)]

theorem delayedPins_rx {c : Config} (hw : c.WellFormed) (v : DataWord) (holds : Nat) :
    (delayedPins c v holds).map Pins.rx = (Segment.frame v none none none).levels c := by
  apply List.ext_getElem?
  intro n
  rw [List.getElem?_map]
  rcases lt_or_ge n (c.totalBits * c.ticksPerBit) with hn | hn
  · rw [getElem?_delayedPins v holds hn, getElem?_sentFrame hw v hn]
    rfl
  · rw [List.getElem?_eq_none (by rwa [length_delayedPins]), List.getElem?_eq_none (by rwa [length_sentFrame])]
    rfl

theorem inputAt_delayedPins (s : State) (v : DataWord) (holds : Nat) {n : Nat}
    (hn : n < s.cfg.totalBits * s.cfg.ticksPerBit) :
    (s.withInputs (delayedPins s.cfg v holds)).inputAt n =
      { rst := false, rx := sentLevel s.cfg v (n / s.cfg.ticksPerBit),
        frameAck := decide (n = s.cfg.completeTick + holds) } := by
  rw [State.inputAt, State.withInputs, getElem?_delayedPins v holds hn]
  rfl

/-- On these levels the block receives the frame. -/
theorem receives_delayedPins {s : State} {v : DataWord} {holds : Nat} (hw : s.cfg.WellFormed) (hq : s.state = .idle)
    (hv : v.toNat < 2 ^ s.cfg.dataBits) (hP : holds + s.cfg.ticksPerHalfBit + 2 ≤ s.cfg.ticksPerBit) :
    Receives (s.withInputs (delayedPins s.cfg v holds)) v holds := by
  have hroom := (idle_in_time_iff s.cfg holds).2 hP
  refine ⟨hw, hq, hv, hP, fun n hn => ?_, fun n hn => ?_, fun n _ hn => ?_, ?_⟩
  · exact congrArg Pins.rst (inputAt_delayedPins s v holds hn)
  · exact congrArg Pins.rx (inputAt_delayedPins s v holds hn)
  · replace hn : n < s.cfg.completeTick + holds := hn
    rw [inputAt_delayedPins s v holds (by omega)]
    exact decide_eq_false (by omega)
  · exact (congrArg Pins.frameAck (inputAt_delayedPins s v holds hroom)).trans (decide_eq_true rfl)

/-- The count goes on while the block is in COMPLETE, and starts again when it is not. -/
theorem completeCount_succ {c : Config} {holds n : Nat} {t : State}
    (hq : t.state = .complete ↔ c.completeTick ≤ n ∧ n ≤ c.completeTick + holds) :
    completeCount c holds (n + 1) = t.completeStep (completeCount c holds n) := by
  by_cases hc : t.state = .complete
  · obtain ⟨hge, hle⟩ := hq.1 hc
    rw [State.completeStep_complete _ hc, completeCount, completeCount, if_pos (by omega), if_pos (by omega)]
    omega
  · have hn := mt hq.2 hc
    rw [State.completeStep_other _ hc, completeCount]
    split_ifs <;> omega

theorem completeCount_succ_eq_iff (c : Config) (holds n : Nat) :
    completeCount c holds (n + 1) = holds + 1 ↔ n = c.completeTick + holds := by
  unfold completeCount
  split_ifs
  · omega
  · exact iff_of_false id (by omega)

/-- The consumer `ack=delay A` gives exactly these levels. -/
theorem answeredBy_delayedPins {s : State} {v : DataWord} {holds : Nat}
    (h : Receives (s.withInputs (delayedPins s.cfg v holds)) v holds) :
    AnsweredBy (.delay holds) (completeCount s.cfg holds) s (delayedPins s.cfg v holds) := by
  intro n p hp
  have hn : n < s.cfg.totalBits * s.cfg.ticksPerBit := by
    rw [← length_delayedPins s.cfg v holds]
    exact (List.getElem?_eq_some_iff.1 hp).1
  obtain ⟨t, hrun, hq⟩ := h.run_state hn
  rw [getElem?_delayedPins v holds hn] at hp
  cases hp
  refine ⟨t, hrun, completeCount_succ hq, rfl, ?_⟩
  rw [Consumer.ack_delay]
  exact decide_eq_decide.2 (completeCount_succ_eq_iff _ _ _).symm

/-- One period of the closed loop: IDLE to IDLE, with the clean frame handed over. -/
theorem runLoop_sentFrame {s : State} {v : DataWord} {holds : Nat} (hw : s.cfg.WellFormed) (hq : s.state = .idle)
    (hi : s.inputs = []) (hv : v.toNat < 2 ^ s.cfg.dataBits)
    (hP : holds + s.cfg.ticksPerHalfBit + 2 ≤ s.cfg.ticksPerBit) :
    ∃ u handed, u.cfg = s.cfg ∧ u.state = .idle ∧ u.inputs = [] ∧
      handed.map HandedOver.frame = [cleanFrame s.cfg v] ∧
      ∀ {ls t hs}, runLoop (.delay holds) ls 0 u = .next (t, hs) →
        runLoop (.delay holds) ((Segment.frame v none none none).levels s.cfg ++ ls) 0 s = .next (t, handed ++ hs) := by
  have h := receives_delayedPins hw hq hv hP
  obtain ⟨u, hrun, hidle, hobs⟩ := h.run_period
  have hcfg : u.cfg = s.cfg := (run_cfg hrun).trans rfl
  have hlen := length_delayedPins s.cfg v holds
  refine ⟨u, _, hcfg, hidle, ?_, hobs, fun {ls t hs} hrest => ?_⟩
  · rw [run_inputs hrun]
    exact List.drop_eq_nil_of_le hlen.le
  · have h0 : completeCount s.cfg holds 0 = 0 := by simp [completeCount]
    have hloop := runLoop_append (ls := ls) (hs := hs) hw hi (answeredBy_delayedPins h) (hlen ▸ hrun)
      (by rw [runLoop_before _ (by rw [hidle]; decide), hrest])
    rwa [delayedPins_rx hw, h0, hlen] at hloop

/-- The closed loop on a back-to-back stream, by induction on the stream: each frame begins in IDLE. -/
theorem runLoop_stream {s : State} {vs : List DataWord} {holds : Nat} (hw : s.cfg.WellFormed) (hq : s.state = .idle)
    (hi : s.inputs = []) (hfits : ∀ v ∈ vs, v.toNat < 2 ^ s.cfg.dataBits)
    (hP : holds + s.cfg.ticksPerHalfBit + 2 ≤ s.cfg.ticksPerBit) :
    ∃ t hs, runLoop (.delay holds) (vs.flatMap fun v => (Segment.frame v none none none).levels s.cfg) 0 s = .next (t, hs) ∧
      hs.map HandedOver.frame = vs.map (cleanFrame s.cfg) := by
  induction vs generalizing s with
  | nil => exact ⟨s, [], rfl, rfl⟩
  | cons v vs ih =>
    obtain ⟨hv, hvs⟩ := List.forall_mem_cons.1 hfits
    obtain ⟨u, handed, hcfg, hidle, hin, hframe, hloop⟩ := runLoop_sentFrame hw hq hi hv hP
    obtain ⟨t, hs, hrest, hframes⟩ := ih (s := u) (hcfg ▸ hw) hidle hin (hcfg ▸ hvs) (hcfg ▸ hP)
    rw [hcfg] at hrest hframes
    refine ⟨t, handed ++ hs, hloop hrest, ?_⟩
    rw [List.map_append, hframe, hframes]
    rfl

/-- A back-to-back stream fills the test program to its end tick. -/
theorem lineTrace_stream (c : Config) (vs : List DataWord) :
    lineTrace c (vs.map fun v => .frame v none none none) (vs.length * (c.totalBits * c.ticksPerBit)) =
      vs.flatMap fun v => (Segment.frame v none none none).levels c := by
  have hlen : (vs.flatMap fun v => (Segment.frame v none none none).levels c).length =
      vs.length * (c.totalBits * c.ticksPerBit) := by
    simp [List.length_flatMap, length_sentFrame]
  rw [lineTrace, List.flatMap_map, ← hlen, List.take_length, Nat.sub_self, List.replicate_zero, List.append_nil]

/-- Settles O46: the test program is the closed loop on the stream's line, from the launch state. -/
theorem delayedConsumerReceivesBackToBackStream : Obligations.DelayedConsumerReceivesBackToBackStream := by
  intro c holds vs hw hP hfits
  rw [TestProgram.run, if_pos hw, lineTrace_stream]
  exact runLoop_stream (s := State.resetFor c) hw rfl rfl hfits hP

end Sys2Proof.Machine
